-- ==== Sys2Proof/Word.lean ====
section
/-! DEFINITION. The block's words: a byte, a frame, and the widths of its multi-byte fields (00_scope.md section 6). -/

namespace Sys2Proof

/-- A byte: 8 bits, unsigned, bit 7 the most significant. -/
abbrev Byte := BitVec 8

/-- A frame in wire order: the byte at offset `i` is the element at index `i`, offset 0 the length byte
(00_scope.md section 6, 20_memory.md R42). -/
abbrev Frame := List Byte

end Sys2Proof
end

