-- ==== Sys2Proof/Config.lean ====
section
/-! DEFINITION. The implementation parameters of 00_scope.md R5. The two the source leaves OPEN are opaque constants. -/

namespace Sys2Proof.Config

/-- `RESEND_TIMES`: writes of one switch-command frame per SETSWITCH (R5). -/
def resendTimes : Nat := 3

/-- `RESEND_DELAY`: wait after each write of a burst, in ticks of 1 ms (R5). -/
def resendDelay : Nat := 150

/-- `RX_CAP`: capacity of the accumulator buffer in bytes (R5, R10). -/
def rxCap : Nat := 256

/-- `TX_CAP`: capacity of the transmit frame buffer in bytes (R5, R131). -/
def txCap : Nat := 13

/-- `LEN_WIDTH`: bytes of the length prefix, both directions (R5, conflict C1; log 16). -/
def lenWidth : Nat := 1

/-- `T_SETTLE` less the 1 ms it has at least (R5, D18). OPEN: no value stands here, log 9. -/
opaque tSettleLessOne : Nat

/-- `T_READ` less the 1 ms it has at least (R5, D18). OPEN: no value stands here, log 9. -/
opaque tReadLessOne : Nat

/-- `T_SETTLE`: the fixed settle duration in ticks, at least 1 (R5, D18). -/
def tSettle : Nat := tSettleLessOne + 1

/-- `T_READ`: the bounded per-read time-out in ticks, at least 1 (R5, D18). -/
def tRead : Nat := tReadLessOne + 1

end Sys2Proof.Config
end

