-- ==== Sys2Proof/Machine/Operands.lean ====
section
/-! DEFINITION. Frame access: `MemRead` and `MemWrite` of 00_scope.md section 6, nibbles, and the big-endian order of every
multi-byte field (20_memory.md R41, R44; 30_encoding.md R68 to R70). -/

namespace Sys2Proof.Machine

/-- `MemRead(off, 1)`; none past the end of the frame (20_memory.md R43). -/
def memRead8 (f : Frame) (off : Nat) : Option Byte := f[off]?

/-- Two bytes, the first the more significant: `a :: b` (20_memory.md R41). -/
def join16 (a b : Byte) : BitVec 16 := a ++ b

/-- Four bytes, the first the most significant (20_memory.md R41). -/
def join32 (a b c d : Byte) : BitVec 32 := join16 a b ++ join16 c d

/-- `MemRead(off, 2)`, big-endian. -/
def memRead16 (f : Frame) (off : Nat) : Option (BitVec 16) := do
  let a ← memRead8 f off
  let b ← memRead8 f (off + 1)
  return join16 a b

/-- `MemRead(off, 4)`, big-endian. -/
def memRead32 (f : Frame) (off : Nat) : Option (BitVec 32) := do
  let a ← memRead8 f off
  let b ← memRead8 f (off + 1)
  let c ← memRead8 f (off + 2)
  let d ← memRead8 f (off + 3)
  return join32 a b c d

/-- `v[8*(3-j)+7 : 8*(3-j)]`: byte `j` of a 32-bit value in big-endian order (00_scope.md section 6, `MemWrite`). -/
def byteOf32 (v : BitVec 32) (j : Nat) : Byte := v.extractLsb' (8 * (3 - j)) 8

/-- `MemWrite(off, 1, v)` over the frame under construction. -/
def memWrite8 (w : Frame) (off : Nat) (v : Byte) : Frame := w.set off v

/-- `MemWrite(off, 4, v)` over the frame under construction, big-endian. -/
def memWrite32 (w : Frame) (off : Nat) (v : BitVec 32) : Frame :=
  (((w.set off (byteOf32 v 0)).set (off + 1) (byteOf32 v 1)).set (off + 2) (byteOf32 v 2)).set (off + 3) (byteOf32 v 3)

/-- `v[7:4]`, the high nibble. -/
def highNibble (v : Byte) : BitVec 4 := v.extractLsb' 4 4

/-- `v[3:0]`, the low nibble. -/
def lowNibble (v : Byte) : BitVec 4 := v.extractLsb' 0 4

/-- A signal level: the high nibble delivered in a `u8` (30_encoding.md R69). -/
def signalLevel (v : Byte) : Byte := (highNibble v).setWidth 8

/-- `raw[14:0]`: the magnitude in tenths of a degree (30_encoding.md R70). -/
def tempMagnitude (raw : BitVec 16) : BitVec 15 := raw.extractLsb' 0 15

/-- A frame of `n` bytes that is about to be written at every offset. -/
def newFrame (n : Nat) : Frame := List.replicate n 0#8

end Sys2Proof.Machine
end

