-- ==== Sys2Proof/Syntax.lean ====
section
/-! DEFINITION. The block's operations, one constructor of `Instr` for each row of spec/opcode_table.json, and the words
in which they are offered. -/

namespace Sys2Proof

/-- The four interface commands the source defines; the encoder has no other (42_encoder.md R130, R137). -/
inductive IfCommand where
  | reset
  | status
  | enableAll
  | enableUndecoded
  deriving DecidableEq, Repr

/-- An operation of the block. `feed` and the last seven are the input events of 10_state.md R20. The `dec…` and `enc…`
rows are direct calls of the two pure components (10_state.md R23; log 3). -/
inductive Instr where
  /-- FEED: one `RxByte` event. -/
  | feed (b : Byte)
  /-- DEC.IFRESP.STATUS on a frame. -/
  | decIfrespStatus (f : Frame)
  /-- DEC.IFRESP.OTHER on a frame. -/
  | decIfrespOther (f : Frame)
  /-- DEC.TEMP.LACROSSE on a frame. -/
  | decTempLacrosse (f : Frame)
  /-- DEC.TEMP.VIKING on a frame. -/
  | decTempViking (f : Frame)
  /-- DEC.LIGHTING.AC on a frame. -/
  | decLightingAc (f : Frame)
  /-- DEC.RAW.LACROSSE on a frame. -/
  | decRawLacrosse (f : Frame)
  /-- DEC.UNKNOWN on a frame. -/
  | decUnknown (f : Frame)
  /-- DEC.SHORT on a frame, with the threshold that failed. -/
  | decShort (f : Frame) (need : Nat)
  /-- ENC.IFCMD.RESET. -/
  | encIfcmdReset (sequence : Byte)
  /-- ENC.IFCMD.STATUS. -/
  | encIfcmdStatus (sequence : Byte)
  /-- ENC.IFCMD.ENABLE_ALL. -/
  | encIfcmdEnableAll (sequence : Byte)
  /-- ENC.IFCMD.ENABLE_UNDECODED. -/
  | encIfcmdEnableUndecoded (sequence : Byte)
  /-- ENC.SWCMD. -/
  | encSwcmd (deviceAddress : BitVec 32) (unitId : Byte) (stateOn : Bool) (sequence : Byte)
  /-- INIT: the `HostInit` event. -/
  | init
  /-- RUN: the `HostRun` event. -/
  | run
  /-- HALT: the `HostHalt` event. -/
  | halt
  /-- SETSWITCH: the `HostSetSwitch` event. -/
  | setswitch (deviceAddress : BitVec 32) (unitId : Byte) (sequence : Byte) (stateOn : Bool)
  /-- TICK: the `Tick` event. -/
  | tick
  /-- TRANSPORT_FAULT: the `TransportFault` event. -/
  | transportFault
  /-- RESET: the `Reset` event. -/
  | reset
  deriving DecidableEq, Repr

/-- A word as an agent offers it: raw data on one of the block's inputs (10_state.md R20, R30; log 4). -/
inductive OfferWord where
  /-- A byte on the RX stream (`rx_data`). -/
  | rxByte (b : Byte)
  /-- A byte sequence handed to the Packet Decoder directly (41_decoder.md R111). -/
  | frame (f : Frame)
  /-- A request to the Packet Encoder for the outbound frame with these bytes (the table's ENC rows). -/
  | outbound (w : Frame)
  /-- The host port: the two-bit operation code and the four side operands (30_encoding.md R78, 10_state.md R30). -/
  | hostOp (op : BitVec 2) (deviceAddress : BitVec 32) (unitId : Byte) (sequence : Byte) (stateOn : Bool)
  /-- The `Tick` strobe. -/
  | tick
  /-- The `TransportFault` strobe. -/
  | transportFault
  /-- The reset input. -/
  | reset
  deriving DecidableEq, Repr

end Sys2Proof
end

