-- ==== Sys2Proof/WellFormed.lean ====
section
/-! DEFINITION. Which instructions are well formed: each DEC row with the frames that spec/opcode_table.json's match, mask,
priority and min_len give it. Written from the table, apart from the decoder's text in Decode.lean. -/

namespace Sys2Proof

/-- The bytes at offsets 1 and 2 are this type and subtype (30_encoding.md R61). -/
def Frame.hasKey (f : Frame) (type subtype : Byte) : Bool :=
  f[1]? == some type && f[2]? == some subtype

/-- A frame has 1 to 256 bytes (30_encoding.md R60, 41_decoder.md R100). -/
def Frame.sized (f : Frame) : Bool := decide (1 ≤ f.length) && decide (f.length ≤ 256)

/-- The type and subtype are one of the recognised pairs (30_encoding.md R75 rows 1 to 6, R76). -/
def Frame.recognised (f : Frame) : Bool :=
  f.hasKey 0x01#8 0x00#8 || f.hasKey 0x50#8 0x05#8 || f.hasKey 0x50#8 0x07#8 || f.hasKey 0x11#8 0x00#8
    || f.hasKey 0x03#8 0x04#8

/-- `need` is the threshold at which this frame is too short (41_decoder.md R110). -/
def Frame.shortAt (f : Frame) (need : Nat) : Bool :=
  decide (f.length < need) &&
    (need == 3
      || (need == 5 && f.hasKey 0x01#8 0x00#8)
      || (need == 7 && f.hasKey 0x01#8 0x00#8 && f[4]? == some 0x02#8)
      || (need == 9 && (f.hasKey 0x50#8 0x05#8 || f.hasKey 0x50#8 0x07#8))
      || (need == 12 && f.hasKey 0x11#8 0x00#8))

/-- The checks of each row. Every operand of the other rows is legal: any byte is fed (30_encoding.md R60), any sequence
is encoded (42_encoder.md R131, R137), any address and unit (D36). -/
def Instr.wellFormed : Instr → Bool
  | .feed _ => true
  | .decIfrespStatus f => f.sized && f.hasKey 0x01#8 0x00#8 && f[4]? == some 0x02#8 && decide (7 ≤ f.length)
  | .decIfrespOther f => f.sized && f.hasKey 0x01#8 0x00#8 && !(f[4]? == some 0x02#8) && decide (5 ≤ f.length)
  | .decTempLacrosse f => f.sized && f.hasKey 0x50#8 0x05#8 && decide (9 ≤ f.length)
  | .decTempViking f => f.sized && f.hasKey 0x50#8 0x07#8 && decide (9 ≤ f.length)
  | .decLightingAc f => f.sized && f.hasKey 0x11#8 0x00#8 && decide (12 ≤ f.length)
  | .decRawLacrosse f => f.sized && f.hasKey 0x03#8 0x04#8
  | .decUnknown f => f.sized && decide (3 ≤ f.length) && !f.recognised
  | .decShort f need => f.sized && f.shortAt need
  | .encIfcmdReset _ => true
  | .encIfcmdStatus _ => true
  | .encIfcmdEnableAll _ => true
  | .encIfcmdEnableUndecoded _ => true
  | .encSwcmd _ _ _ _ => true
  | .init => true
  | .run => true
  | .halt => true
  | .setswitch _ _ _ _ => true
  | .tick => true
  | .transportFault => true
  | .reset => true

end Sys2Proof
end

