-- ==== Sys2Proof/Decode.lean ====
section
/-! DEFINITION. Decoding of an offered word into an instruction, total, rejecting by name; then the encoder; then the
table-word entry the host reads. The frame dispatch follows 41_decoder.md R101 and R110. -/

namespace Sys2Proof

open Sys2Proof.Machine

/-- Why a word is no instruction. -/
inductive Reject where
  /-- A byte sequence of 0 or of more than 256 bytes is no frame (30_encoding.md R60, 41_decoder.md R100). -/
  | notAFrame
  /-- The encoder has no frame with these bytes (42_encoder.md R137, U6). -/
  | undefinedCommand
  deriving DecidableEq, Repr

/-- The command codes of 30_encoding.md R74. -/
def IfCommand.code : IfCommand → Byte
  | .reset => 0x00#8
  | .status => 0x02#8
  | .enableAll => 0x04#8
  | .enableUndecoded => 0x05#8

/-- The row a frame takes: the dispatch of 41_decoder.md R101 with the length checks of R110 in their places. -/
def selectRow (f : Frame) : Instr :=
  if f.length < 3 then .decShort f 3
  else if f[1]? = some 0x01#8 ∧ f[2]? = some 0x00#8 then
    if f.length < 5 then .decShort f 5
    else if f[4]? = some 0x02#8 then
      if f.length < 7 then .decShort f 7 else .decIfrespStatus f
    else .decIfrespOther f
  else if f[1]? = some 0x50#8 ∧ f[2]? = some 0x05#8 then
    if f.length < 9 then .decShort f 9 else .decTempLacrosse f
  else if f[1]? = some 0x50#8 ∧ f[2]? = some 0x07#8 then
    if f.length < 9 then .decShort f 9 else .decTempViking f
  else if f[1]? = some 0x11#8 ∧ f[2]? = some 0x00#8 then
    if f.length < 12 then .decShort f 12 else .decLightingAc f
  else if f[1]? = some 0x03#8 ∧ f[2]? = some 0x04#8 then .decRawLacrosse f
  else .decUnknown f

/-- A byte sequence handed to the Packet Decoder. -/
def decodeFrameWord (f : Frame) : Except Reject Instr :=
  if f.length = 0 ∨ 256 < f.length then .error .notAFrame else .ok (selectRow f)

/-- The IFCMD row of a command code (30_encoding.md R66, R74); no other code is a command (R76, R137). -/
def ifcmdRow (sequence code : Byte) : Except Reject Instr :=
  if code = 0x00#8 then .ok (.encIfcmdReset sequence)
  else if code = 0x02#8 then .ok (.encIfcmdStatus sequence)
  else if code = 0x04#8 then .ok (.encIfcmdEnableAll sequence)
  else if code = 0x05#8 then .ok (.encIfcmdEnableUndecoded sequence)
  else .error .undefinedCommand

/-- An outbound frame's row: the match and mask columns of the ENC rows (30_encoding.md R66, R67). -/
def decodeOutbound (w : Frame) : Except Reject Instr :=
  match w with
  | [length, type, subtype, sequence, code] =>
    if length = 0x04#8 ∧ type = 0x00#8 ∧ subtype = 0x00#8 then ifcmdRow sequence code
    else .error .undefinedCommand
  | [length, type, subtype, sequence, a3, a2, a1, a0, unitId, state, group, dim, reserved] =>
    if length = 0x0C#8 ∧ type = 0x11#8 ∧ subtype = 0x00#8 ∧ group = 0x00#8 ∧ dim = 0x00#8 ∧ reserved = 0x00#8 then
      if state = 0x01#8 then .ok (.encSwcmd (join32 a3 a2 a1 a0) unitId true sequence)
      else if state = 0x00#8 then .ok (.encSwcmd (join32 a3 a2 a1 a0) unitId false sequence)
      else .error .undefinedCommand
    else .error .undefinedCommand
  | _ => .error .undefinedCommand

/-- The host operation codes `INIT = 0`, `RUN = 1`, `HALT = 2`, `SETSWITCH = 3` (30_encoding.md R78). -/
def decodeHostOp (op : BitVec 2) (deviceAddress : BitVec 32) (unitId sequence : Byte) (stateOn : Bool) : Instr :=
  if op = 0#2 then .init
  else if op = 1#2 then .run
  else if op = 2#2 then .halt
  else .setswitch deviceAddress unitId sequence stateOn

/-- The instruction an offered word stands for. Total. -/
def decode : OfferWord → Except Reject Instr
  | .rxByte b => .ok (.feed b)
  | .frame f => decodeFrameWord f
  | .outbound w => decodeOutbound w
  | .hostOp op a u q on => .ok (decodeHostOp op a u q on)
  | .tick => .ok .tick
  | .transportFault => .ok .transportFault
  | .reset => .ok .reset

/-- The bytes of an interface command, from the table's encoding column (30_encoding.md R66). -/
def ifcmdWord (sequence code : Byte) : OfferWord := .outbound [0x04#8, 0x00#8, 0x00#8, sequence, code]

/-- The word of a well-formed instruction, from the spec's encoding tables. -/
def encode : Instr → OfferWord
  | .feed b => .rxByte b
  | .decIfrespStatus f => .frame f
  | .decIfrespOther f => .frame f
  | .decTempLacrosse f => .frame f
  | .decTempViking f => .frame f
  | .decLightingAc f => .frame f
  | .decRawLacrosse f => .frame f
  | .decUnknown f => .frame f
  | .decShort f _ => .frame f
  | .encIfcmdReset q => ifcmdWord q 0x00#8
  | .encIfcmdStatus q => ifcmdWord q 0x02#8
  | .encIfcmdEnableAll q => ifcmdWord q 0x04#8
  | .encIfcmdEnableUndecoded q => ifcmdWord q 0x05#8
  | .encSwcmd a u on q =>
    .outbound [0x0C#8, 0x11#8, 0x00#8, q, byteOf32 a 0, byteOf32 a 1, byteOf32 a 2, byteOf32 a 3, u,
      if on then 0x01#8 else 0x00#8, 0x00#8, 0x00#8, 0x00#8]
  | .init => .hostOp 0#2 0#32 0#8 0#8 false
  | .run => .hostOp 1#2 0#32 0#8 0#8 false
  | .halt => .hostOp 2#2 0#32 0#8 0#8 false
  | .setswitch a u q on => .hostOp 3#2 a u q on
  | .tick => .tick
  | .transportFault => .transportFault
  | .reset => .reset

/-- A row of the key and mask form of the dispatch (30_encoding.md R75), with the table's `min_len`. -/
structure KeyRow where
  mask : BitVec 24
  pattern : BitVec 24
  minLen : Nat
  row : Frame → Instr

/-- The seven rows, in priority order (30_encoding.md R75; spec/opcode_table.json, `match`, `mask`, `min_len`). -/
def keyRows : List KeyRow :=
  [ ⟨0xFFFFFF#24, 0x010002#24, 7, .decIfrespStatus⟩,
    ⟨0xFFFF00#24, 0x010000#24, 5, .decIfrespOther⟩,
    ⟨0xFFFF00#24, 0x500500#24, 9, .decTempLacrosse⟩,
    ⟨0xFFFF00#24, 0x500700#24, 9, .decTempViking⟩,
    ⟨0xFFFF00#24, 0x110000#24, 12, .decLightingAc⟩,
    ⟨0xFFFF00#24, 0x030400#24, 3, .decRawLacrosse⟩,
    ⟨0x000000#24, 0x000000#24, 3, .decUnknown⟩ ]

/-- `K = f[1] :: f[2] :: f[4]`, the last taken as 0x00 when the frame has no offset 4 (30_encoding.md R75). -/
def dispatchKey (type subtype : Byte) (command : Option Byte) : BitVec 24 :=
  join16 type subtype ++ command.getD 0x00#8

/-- The first row of the list whose masked key matches, with its length check (30_encoding.md R75). -/
def firstKeyRow (rows : List KeyRow) (key : BitVec 24) (f : Frame) : Instr :=
  match rows with
  | [] => .decUnknown f
  | r :: rest =>
    if key &&& r.mask = r.pattern then
      if f.length < r.minLen then .decShort f r.minLen else r.row f
    else firstKeyRow rest key f

/-- The row a frame takes by the key and mask form (30_encoding.md R75). -/
def selectRowByKey (f : Frame) : Instr :=
  match f[1]?, f[2]? with
  | some type, some subtype => firstKeyRow keyRows (dispatchKey type subtype f[4]?) f
  | _, _ => .decShort f 3

/-- The `n` bytes of a number, the most significant first. -/
def bigEndianBytes : Nat → Nat → List Byte
  | 0, _ => []
  | n + 1, w => BitVec.ofNat 8 (w / 256 ^ n) :: bigEndianBytes n w

/-- A frame that has this dispatch key, every byte beyond the key zero, long enough for every row (30_encoding.md R75). -/
def keyFrame (w : Nat) : Frame :=
  [0x0B#8, BitVec.ofNat 8 (w / 65536), BitVec.ofNat 8 (w / 256), 0#8, BitVec.ofNat 8 w, 0#8, 0#8, 0#8, 0#8, 0#8, 0#8, 0#8]

/-- An ENC row's word: the number of the table's `match` column, the first byte most significant; a number that is no
row read so is read with the first byte least significant (log 5). -/
def outboundWord (n w : Nat) : OfferWord :=
  match decodeOutbound (bigEndianBytes n w) with
  | .ok _ => .outbound (bigEndianBytes n w)
  | .error _ => .outbound (bigEndianBytes n w).reverse

/-- The offered word of a table row's bits, by the row's width (log 5): no bits, a strobe; 2 bits, a host operation; 8
bits, a host operation when the number is one of the four codes, else a byte of the RX stream; 24 bits, a dispatch key;
40 and 104 bits, an outbound frame. -/
def tableWord (nbits w : Nat) : Option OfferWord :=
  if nbits = 0 then some .tick
  else if nbits ≤ 8 then
    if w < 4 then some (.hostOp (BitVec.ofNat 2 w) 0#32 0#8 0#8 false)
    else if w < 256 then some (.rxByte (BitVec.ofNat 8 w))
    else none
  else if nbits = 24 then if w < 2 ^ 24 then some (.frame (keyFrame w)) else none
  else if nbits = 40 then if w < 2 ^ 40 then some (outboundWord 5 w) else none
  else if nbits = 104 then if w < 2 ^ 104 then some (outboundWord 13 w) else none
  else none

/-- The instruction the decoder reads from a table row's bits. -/
def decodeTableWord (nbits w : Nat) : Option Instr :=
  match tableWord nbits w with
  | none => none
  | some word =>
    match decode word with
    | .ok i => some i
    | .error _ => none

end Sys2Proof
end

