-- ==== Sys2Proof/Machine/State.lean ====
section
/-! DEFINITION. The block's state (10_state.md R10 to R19, R29), its output records (R21), and the reasons a step can stop. -/

namespace Sys2Proof.Machine

/-- The session state (10_state.md R12). -/
inductive Sess where
  | closed
  | initializing
  | ready
  | stopped
  deriving DecidableEq, Repr

/-- The sub-state of `Initializing` (10_state.md R13). -/
inductive Phase where
  | settle
  | waitEnable
  | waitStatus
  deriving DecidableEq, Repr

/-- The transmit state (10_state.md R19). -/
inductive TxState where
  | idle
  | delay
  deriving DecidableEq, Repr

/-- The status of a completion record (10_state.md R21). -/
inductive Status where
  | ok
  | err
  deriving DecidableEq, Repr

/-- A protocol cause with the value it records (60_exceptions.md R190, codes 2 to 5). -/
inductive Diag where
  /-- SHORT: frame size and the threshold that failed. -/
  | short (n need : Nat)
  /-- UNKNOWN: the type and subtype. -/
  | unknown (type subtype : Byte)
  /-- IFRESP_OTHER: the command code. -/
  | ifrespOther (command : Byte)
  /-- RAW: the whole frame. -/
  | raw (frame : Frame)
  deriving DecidableEq, Repr

/-- A result of DECODE (41_decoder.md R100). The temperature stands as sign and magnitude in tenths (R106). -/
inductive Decoded where
  | status (firmwareRevision : Byte)
  | temperature (sensorAddress : BitVec 16) (sequence : Byte) (tempSign : Bool) (tempMag : BitVec 15)
      (signalLevel : Byte) (batteryLow : Bool)
  | deviceState (deviceAddress : BitVec 32) (unitId : Byte) (stateOn : Bool) (signalLevel : Byte)
  | none (cause : Diag)
  deriving DecidableEq, Repr

/-- An output record (10_state.md R21). -/
inductive Output where
  /-- `TxWrite(bytes)`: one whole frame on the TX stream. -/
  | txWrite (bytes : Frame)
  /-- `Ev(Status)`. -/
  | evStatus (firmwareRevision : Byte)
  /-- `Ev(Temperature)`. -/
  | evTemperature (sensorAddress : BitVec 16) (sequence : Byte) (tempSign : Bool) (tempMag : BitVec 15)
      (signalLevel : Byte) (batteryLow : Bool)
  /-- `Ev(DeviceState)`. -/
  | evDeviceState (deviceAddress : BitVec 32) (unitId : Byte) (stateOn : Bool) (signalLevel : Byte)
  /-- `Diag(cause, info)`. -/
  | diag (cause : Diag)
  /-- `InitDone(status)`. -/
  | initDone (status : Status)
  /-- `RunReturned(status)`. -/
  | runReturned (status : Status)
  /-- `SetSwitchDone(status)`. -/
  | setSwitchDone (status : Status)
  deriving DecidableEq, Repr

/-- What a direct call of a pure component returns (10_state.md R23; log 3). -/
inductive Reply where
  /-- The result of a DEC row. -/
  | decoded (result : Decoded)
  /-- The frame an ENC row builds. -/
  | frame (bytes : Frame)
  deriving DecidableEq, Repr

/-- The state of the block, what is offered to it, and the reply of the last direct component call. -/
structure State where
  /-- `rx_buf[0 .. rx_len-1]`; `rx_len` is its length and no further cell holds a value (R10, R11; log 6). -/
  rxBuf : Frame
  /-- `sess` (R12). -/
  sess : Sess
  /-- `phase` (R13). -/
  phase : Phase
  /-- `running` (R14). -/
  running : Bool
  /-- `if_seq` (R15). -/
  ifSeq : Byte
  /-- `fw_rev` (R16). -/
  fwRev : Byte
  /-- `fw_valid` (R16). -/
  fwValid : Bool
  /-- `err` (R17). -/
  err : Bool
  /-- `err_code` (R17). -/
  errCode : Byte
  /-- `timer` (R18). -/
  timer : Nat
  /-- `rd_timer` (R18). -/
  rdTimer : Nat
  /-- `tx_buf[0 .. tx_len-1]`; `tx_len` is its length (R19; log 6). -/
  txBuf : Frame
  /-- `tx_state` (R19). -/
  txState : TxState
  /-- `tx_rep` (R19). -/
  txRep : Nat
  /-- `tx_timer` (R19). -/
  txTimer : Nat
  /-- The output trace, oldest record first (00_scope.md R6, 10_state.md R21). -/
  out : List Output
  /-- The MODEL's own: what the last DEC or ENC row returned (log 3). -/
  reply : Option Reply
  /-- What the agents outside the block offer, in the order they offer it: the platform FIFO and the callers (R27; log 1). -/
  offers : List OfferWord
  deriving DecidableEq, Repr

/-- Why the machine stops with a fault. Both arise only in states the spec does not have (log 12). -/
inductive Fault where
  /-- FEED at a buffer that holds 256 bytes or more: offset 256 is no cell of `rx_buf` (R10). Raised by FEED; safe. -/
  | rxBufOverrun
  /-- TICK when a timer is 0 in the phase that counts it: no counter is decremented below 0 (49_cross_family_laws.md
  R240 (d)). Raised by TICK; safe. -/
  | counterUnderflow
  deriving DecidableEq, Repr

/-- Why a step is refused. -/
inductive Refusal where
  /-- An instruction with no meaning yet. Raised by `exec`'s refused arms, of which there is none; safe. -/
  | notModelled (mnemonic : String)
  /-- The offered word is no instruction (R100, R137, U6; log 21). Raised by `step`; safe. -/
  | undecodable (reason : Reject)
  deriving DecidableEq, Repr

/-- The state right after reset (10_state.md R29, 70_reset_and_hazards.md R220), with nothing offered. `phase`, `timer`,
`rdTimer`, `txTimer` and `txBuf` hold no value there; what stands for it is a DESIGN CHOICE (log 7). -/
def State.reset : State where
  rxBuf := []
  sess := .closed
  phase := .settle
  running := false
  ifSeq := 0#8
  fwRev := 0#8
  fwValid := false
  err := false
  errCode := 0#8
  timer := 0
  rdTimer := 0
  txBuf := []
  txState := .idle
  txRep := 0
  txTimer := 0
  out := []
  reply := none
  offers := []

end Sys2Proof.Machine
end

