-- ==== Sys2Proof/Machine/Flags.lean ====
section
/-! DEFINITION. The computed flags and predicates of 10_state.md R22, R25, R26, the codes of D12, D15 and R190, and the
views of a temperature (41_decoder.md R106). -/

namespace Sys2Proof.Machine

/-- `done()`: the buffer is not empty and its length is its first byte plus one, over the naturals
(40_accumulator.md R91, R92). -/
def done (buf : Frame) : Bool :=
  match buf with
  | [] => false
  | length :: _ => buf.length == length.toNat + 1

/-- `battery_low`: the low nibble is zero (30_encoding.md R71). -/
def batteryLow (v : Byte) : Bool := lowNibble v == 0#4

/-- `temp_sign = raw[15]` (30_encoding.md R70). -/
def tempSign (raw : BitVec 16) : Bool := raw.getLsbD 15

/-- `state_on`: any nonzero state byte (30_encoding.md R71). -/
def stateOn (v : Byte) : Bool := v != 0#8

/-- `state_code`: 0x01 for on, 0x00 for off (30_encoding.md R71). -/
def stateCode (on : Bool) : Byte := if on then 0x01#8 else 0x00#8

/-- `next_seq` (10_state.md R15): 255 goes to 1. -/
def nextSeq (s : Byte) : Byte := if s = 255#8 then 1#8 else s + 1#8

/-- `reading` (10_state.md R22). -/
def reading (s : State) : Bool :=
  match s.sess with
  | .closed => false
  | .initializing => s.phase == .waitEnable || s.phase == .waitStatus
  | .ready => s.running
  | .stopped => false

/-- `tx_busy` (10_state.md R26). -/
def txBusy (s : State) : Bool := s.txState != .idle

/-- `port_open` (10_state.md R26, 60_exceptions.md R207). -/
def portOpen (s : State) : Bool := s.sess == .initializing || s.sess == .ready

/-- The enabling condition of each input event (10_state.md R22). A direct call of a pure component needs nothing (R23). -/
def enabled (i : Instr) (s : State) : Bool :=
  match i with
  | .feed _ => reading s
  | .decIfrespStatus _ => true
  | .decIfrespOther _ => true
  | .decTempLacrosse _ => true
  | .decTempViking _ => true
  | .decLightingAc _ => true
  | .decRawLacrosse _ => true
  | .decUnknown _ => true
  | .decShort _ _ => true
  | .encIfcmdReset _ => true
  | .encIfcmdStatus _ => true
  | .encIfcmdEnableAll _ => true
  | .encIfcmdEnableUndecoded _ => true
  | .encSwcmd _ _ _ _ => true
  | .init => s.sess == .closed
  | .run => s.sess == .ready && !s.running
  | .halt => s.sess == .ready
  | .setswitch _ _ _ _ => s.sess == .ready && s.txState == .idle
  | .tick => true
  | .transportFault => true
  | .reset => true

/-- Every timer that this state counts is at least 1 (49_cross_family_laws.md R240 (d)). -/
def countersLive (s : State) : Bool :=
  (s.txState == .idle || decide (1 ≤ s.txTimer)) &&
    (match s.sess with
      | .initializing =>
        match s.phase with
        | .settle => decide (1 ≤ s.timer)
        | .waitEnable => decide (1 ≤ s.rdTimer)
        | .waitStatus => decide (1 ≤ s.rdTimer)
      | .closed => true
      | .ready => true
      | .stopped => true)

/-- The two-bit encoding of `sess` (D15). -/
def sessCode : Sess → BitVec 2
  | .closed => 0#2
  | .initializing => 1#2
  | .ready => 2#2
  | .stopped => 3#2

/-- The encoding of `phase` (D15). -/
def phaseCode : Phase → BitVec 2
  | .settle => 0#2
  | .waitEnable => 1#2
  | .waitStatus => 2#2

/-- The encoding of `tx_state` (D15). -/
def txStateCode : TxState → BitVec 1
  | .idle => 0#1
  | .delay => 1#1

/-- The cause code `TRANSPORT` (60_exceptions.md R190). -/
def transportCode : Byte := 1#8

/-- The cause code of a `Diag` record (60_exceptions.md R190). -/
def diagCode : Diag → Byte
  | .short _ _ => 2#8
  | .unknown _ _ => 3#8
  | .ifrespOther _ => 4#8
  | .raw _ => 5#8

/-- The read-only status outputs (10_state.md R26), each a direct copy of state: `sess`, `running`, `fw_rev`, `fw_valid`,
`err`, `err_code`, `tx_busy`, `port_open`, `rx_ready`. -/
structure StatusOutputs where
  sess : BitVec 2
  running : Bool
  fwRev : Byte
  fwValid : Bool
  err : Bool
  errCode : Byte
  txBusy : Bool
  portOpen : Bool
  rxReady : Bool
  deriving DecidableEq, Repr

/-- What the collaborator sees on the status outputs (10_state.md R26). -/
def statusOutputs (s : State) : StatusOutputs where
  sess := sessCode s.sess
  running := s.running
  fwRev := s.fwRev
  fwValid := s.fwValid
  err := s.err
  errCode := s.errCode
  txBusy := txBusy s
  portOpen := portOpen s
  rxReady := reading s

/-- The temperature in tenths of a degree, sign applied (41_decoder.md R106). -/
def temperatureTenths (sign : Bool) (mag : BitVec 15) : Int :=
  if sign then -(mag.toNat : Int) else (mag.toNat : Int)

/-- `temperature_celsius`: the exact rational (41_decoder.md R106). -/
def temperatureCelsius (sign : Bool) (mag : BitVec 15) : Rat := mkRat (temperatureTenths sign mag) 10

/-- `num / den` rounded to the nearest natural, ties to even. -/
def roundHalfEven (num den : Nat) : Nat :=
  let q := num / den
  let r := num % den
  if 2 * r < den then q else if den < 2 * r then q + 1 else if q % 2 = 0 then q else q + 1

/-- The binary64 nearest to `mag / 10`, as bits without sign. The value lies in [0.1, 3276.7] when `mag` is not 0, so its
binary exponent is `log2 (mag * 16 / 10) - 4`. PRESUMED: IEEE 754 (K2; log 15). -/
def binary64OfTenths (mag : Nat) : Nat :=
  if mag = 0 then 0
  else
    let e := Nat.log2 (mag * 16 / 10)
    let mantissa := roundHalfEven (mag * 2 ^ (56 - e)) 10
    (e + 1019 - 1) * 2 ^ 52 + mantissa

/-- The `f64` view of a temperature, sign bit applied last (41_decoder.md R106, D9). PRESUMED: IEEE 754 (K2; log 15). -/
def temperatureBinary64 (sign : Bool) (mag : BitVec 15) : BitVec 64 :=
  BitVec.ofNat 64 (binary64OfTenths mag.toNat + if sign then 2 ^ 63 else 0)

end Sys2Proof.Machine
end

