-- ==== Sys2Proof/Machine/Ops.lean ====
section
/-! DEFINITION. The operations the meanings share: output, the two pure components, WRITE and ISSUE, the receive step, the
burst and the handshake, the fault entry, and taking an offer. -/

namespace Sys2Proof.Machine

/-- `emit X` (00_scope.md section 6). -/
def State.emit (s : State) (o : Output) : State := { s with out := s.out ++ [o] }

/-- A direct component call returns its value and touches nothing else (10_state.md R23; log 3). -/
def State.answer (s : State) (r : Reply) : State := { s with reply := some r }

/-- An event that is not enabled has no step and the state is unchanged (00_scope.md R6, 10_state.md R22; log 2). -/
def whenEnabled (i : Instr) (s : State) (step : Host.Outcome State Fault Refusal) : Host.Outcome State Fault Refusal :=
  if enabled i s then step else .next s

/-! The Packet Encoder (42_encoder.md). -/

/-- ENC.IFCMD (42_encoder.md R130). -/
def encIfcmd (sequence : Byte) (command : IfCommand) : Frame := [0x04#8, 0x00#8, 0x00#8, sequence, command.code]

/-- ENC.SWCMD (42_encoder.md R131). -/
def encSwcmd (deviceAddress : BitVec 32) (unitId : Byte) (on : Bool) (sequence : Byte) : Frame :=
  let w := newFrame 13
  let w := memWrite8 w 0 0x0C#8
  let w := memWrite8 w 1 0x11#8
  let w := memWrite8 w 2 0x00#8
  let w := memWrite8 w 3 sequence
  let w := memWrite32 w 4 deviceAddress
  let w := memWrite8 w 8 unitId
  let w := memWrite8 w 9 (stateCode on)
  let w := memWrite8 w 10 0x00#8
  let w := memWrite8 w 11 0x00#8
  memWrite8 w 12 0x00#8

/-! The Packet Decoder (41_decoder.md). -/

/-- The length check that comes before any read it protects (41_decoder.md R110). When the check passes, no read of the
arm is past the end, so `read` answers. -/
def checked (f : Frame) (need : Nat) (read : Option Decoded) : Decoded :=
  if f.length < need then .none (.short f.length need) else read.getD (.none (.short f.length need))

/-- DEC.IFRESP.STATUS (41_decoder.md R102). -/
def decIfrespStatus (f : Frame) : Decoded :=
  checked f 7 do
    let v ← memRead8 f 6
    return .status v

/-- DEC.IFRESP.OTHER (41_decoder.md R103). -/
def decIfrespOther (f : Frame) : Decoded :=
  checked f 5 do
    let c ← memRead8 f 4
    return .none (.ifrespOther c)

/-- DEC.TEMP, shared by the two temperature rows (41_decoder.md R104, R105). -/
def decTemp (f : Frame) : Decoded :=
  checked f 9 do
    let sequence ← memRead8 f 3
    let sensorAddress ← memRead16 f 4
    let raw ← memRead16 f 6
    let levels ← memRead8 f 8
    return .temperature sensorAddress sequence (tempSign raw) (tempMagnitude raw) (signalLevel levels) (batteryLow levels)

/-- DEC.LIGHTING.AC; the sequence at offset 3 is read and dropped (41_decoder.md R107, conflict C7). -/
def decLightingAc (f : Frame) : Decoded :=
  checked f 12 do
    let _sequence ← memRead8 f 3
    let deviceAddress ← memRead32 f 4
    let unitId ← memRead8 f 8
    let state ← memRead8 f 9
    let levels ← memRead8 f 11
    return .deviceState deviceAddress unitId (stateOn state) (signalLevel levels)

/-- DEC.RAW.LACROSSE (41_decoder.md R108). -/
def decRawLacrosse (f : Frame) : Decoded := .none (.raw f)

/-- DEC.UNKNOWN (41_decoder.md R109). -/
def decUnknown (f : Frame) : Decoded :=
  checked f 3 do
    let type ← memRead8 f 1
    let subtype ← memRead8 f 2
    return .none (.unknown type subtype)

/-- DEC.SHORT: `raise Short(n, need)` (41_decoder.md R110). -/
def decShort (f : Frame) (need : Nat) : Decoded := .none (.short f.length need)

/-- DECODE: the arms in the order of 41_decoder.md R101; the first that applies gives the result. -/
def decodeFrame (f : Frame) : Decoded :=
  checked f 3 do
    let t ← memRead8 f 1
    let s ← memRead8 f 2
    if t = 0x01#8 ∧ s = 0x00#8 then
      return checked f 5 do
        let c ← memRead8 f 4
        if c = 0x02#8 then return decIfrespStatus f else return decIfrespOther f
    else if t = 0x50#8 ∧ s = 0x05#8 then return decTemp f
    else if t = 0x50#8 ∧ s = 0x07#8 then return decTemp f
    else if t = 0x11#8 ∧ s = 0x00#8 then return decLightingAc f
    else if t = 0x03#8 ∧ s = 0x04#8 then return decRawLacrosse f
    else return decUnknown f

/-- The output record a result becomes (41_decoder.md R112). -/
def Decoded.record : Decoded → Output
  | .status v => .evStatus v
  | .temperature a q sign mag level low => .evTemperature a q sign mag level low
  | .deviceState a u on level => .evDeviceState a u on level
  | .none cause => .diag cause

/-! WRITE, ISSUE and the handshake (43_retransmitter.md R140, 44_session.md R162 to R168, R174). -/

/-- WRITE: one whole frame on the TX stream (43_retransmitter.md R140). -/
def State.write (s : State) (frame : Frame) : State := s.emit (.txWrite frame)

/-- ISSUE: advance `if_seq`, then write the command once (44_session.md R174). -/
def issue (command : IfCommand) (s : State) : State :=
  let s := { s with ifSeq := nextSeq s.ifSeq }
  s.write (encIfcmd s.ifSeq command)

/-- SENDSTATUS: the end of the first wait (44_session.md R165). -/
def sendStatus (s : State) : State := { issue .status s with phase := .waitStatus, rdTimer := Config.tRead }

/-- COMPLETE: the end of initialisation (44_session.md R168). -/
def complete (s : State) : State := ({ s with sess := .ready } : State).emit (.initDone .ok)

/-! The receive step (40_accumulator.md R90, 44_session.md R176). -/

/-- FEED: append, test, and hand the frame over with the buffer emptied (40_accumulator.md R90). -/
def accumulate (b : Byte) (buf : Frame) : Option Frame × Frame :=
  let grown := buf ++ [b]
  if done grown then (some grown, []) else (none, grown)

/-- A result becomes one record (41_decoder.md R112); a `Status` is also recorded (44_session.md R173). -/
def deliver (r : Decoded) (s : State) : State :=
  let s := s.emit r.record
  match r with
  | .status v => { s with fwRev := v, fwValid := true }
  | .temperature _ _ _ _ _ _ => s
  | .deviceState _ _ _ _ => s
  | .none _ => s

/-- A completed frame ends a handshake wait (44_session.md R163, R166, R176). -/
def endWait (s : State) : State :=
  match s.sess with
  | .initializing =>
    match s.phase with
    | .settle => s
    | .waitEnable => sendStatus s
    | .waitStatus => complete s
  | .closed => s
  | .ready => s
  | .stopped => s

/-- A byte restarts the per-read time-out during initialisation (44_session.md R176). -/
def restartRead (s : State) : State := if s.sess = .initializing then { s with rdTimer := Config.tRead } else s

/-- RXBYTE (44_session.md R176). -/
def rxByte (b : Byte) (s : State) : State :=
  match accumulate b s.rxBuf with
  | (none, buf) => restartRead { s with rxBuf := buf }
  | (some frame, buf) => endWait (deliver (decodeFrame frame) (restartRead { s with rxBuf := buf }))

/-! The burst (43_retransmitter.md R141, R142) and the session's part of a tick (44_session.md R175). -/

/-- SETSWITCH's effect: build the frame once, write it, and start the first delay (43_retransmitter.md R141). -/
def startBurst (frame : Frame) (s : State) : State :=
  let s := ({ s with txBuf := frame } : State).write frame
  { s with txRep := Config.resendTimes - 1, txTimer := Config.resendDelay, txState := .delay }

/-- TICK.TX (43_retransmitter.md R142). It does not look at `sess` (R146). -/
def tickTx (s : State) : State :=
  match s.txState with
  | .idle => s
  | .delay =>
    let s := { s with txTimer := s.txTimer - 1 }
    if s.txTimer = 0 then
      if 0 < s.txRep then
        { s.write s.txBuf with txRep := s.txRep - 1, txTimer := Config.resendDelay }
      else ({ s with txState := .idle } : State).emit (.setSwitchDone .ok)
    else s

/-- TICK.SETTLE (44_session.md R162). -/
def tickSettle (s : State) : State :=
  let s := { s with timer := s.timer - 1 }
  if s.timer = 0 then { issue .enableAll s with phase := .waitEnable, rdTimer := Config.tRead } else s

/-- The read time-out of a handshake wait: count down, and end the wait at 0 (44_session.md R164, R167). -/
def tickWait (atZero : State → State) (s : State) : State :=
  let s := { s with rdTimer := s.rdTimer - 1 }
  if s.rdTimer = 0 then atZero s else s

/-- The session lines of TICK, on the phase at the start of the step (44_session.md R175). -/
def tickSession (s : State) : State :=
  match s.sess with
  | .initializing =>
    match s.phase with
    | .settle => tickSettle s
    | .waitEnable => tickWait sendStatus s
    | .waitStatus => tickWait complete s
  | .closed => s
  | .ready => s
  | .stopped => s

/-! The fault entry (60_exceptions.md R196): the block's one exception, taken here for every meaning. There is no return
from it (R202). -/

/-- `emit X` when the condition holds. -/
def State.emitIf (s : State) (c : Bool) (o : Output) : State := if c then s.emit o else s

/-- TRANSPORT_FAULT's entry with the port open (60_exceptions.md R196). -/
def faultEntry (s : State) : State :=
  let wasInit := s.sess == .initializing
  let wasRunning := s.running
  let wasBurst := txBusy s
  let s := { s with err := true, errCode := transportCode, running := false, txState := .idle, txRep := 0,
                    sess := .stopped }
  ((s.emitIf wasInit (.initDone .err)).emitIf wasRunning (.runReturned .err)).emitIf wasBurst (.setSwitchDone .err)

/-! Taking an offer (10_state.md R20, R22, 60_exceptions.md R200; log 1). -/

/-- A word is ready when its instruction is enabled; a word that is no instruction is ready to be refused. -/
def ready (word : OfferWord) (s : State) : Bool :=
  match decode word with
  | .ok i => enabled i s
  | .error _ => true

/-- The first ready word of the list and the list without it. -/
def takeReady (s : State) : List OfferWord → Option (OfferWord × List OfferWord)
  | [] => none
  | word :: rest =>
    if ready word s then some (word, rest)
    else (takeReady s rest).map fun (taken, left) => (taken, word :: left)

/-- The word the next step handles, with the state that no longer holds it; none when every agent is stalled. -/
def fetch (s : State) : Option (OfferWord × State) :=
  (takeReady s s.offers).map fun (word, rest) => (word, { s with offers := rest })

/-- The frame a record puts on the TX stream. -/
def Output.written : Output → Option Frame
  | .txWrite bytes => some bytes
  | .evStatus _ => none
  | .evTemperature _ _ _ _ _ _ => none
  | .evDeviceState _ _ _ _ => none
  | .diag _ => none
  | .initDone _ => none
  | .runReturned _ => none
  | .setSwitchDone _ => none

/-- The frames written, in order (20_memory.md R48 O3). -/
def txWrites (out : List Output) : List Frame := out.filterMap Output.written

/-- The TX byte stream: the bytes of every `TxWrite`, in order (20_memory.md R40 (4), R42). -/
def txStream (out : List Output) : List Byte := (txWrites out).flatten

end Sys2Proof.Machine
end

