-- ==== Sys2Proof/Machine/Accumulator.lean ====
section
/-! DEFINITION. The Frame Accumulator's row: FEED, the `RxByte` event (40_accumulator.md). -/

namespace Sys2Proof.Machine

/-- FEED: the step of `RxByte(b)` (40_accumulator.md R90, 44_session.md R176). Enabled when `reading`. A buffer that
already fills its 256 cells has none to write (R10; log 12). -/
def execFeed (b : Byte) (s : State) : Host.Outcome State Fault Refusal :=
  whenEnabled (.feed b) s
    (if s.rxBuf.length < Config.rxCap then .next (rxByte b s) else .fault .rxBufOverrun)

end Sys2Proof.Machine
end

