-- ==== Sys2Proof/Machine/Decoder.lean ====
section
/-! DEFINITION. The Packet Decoder's rows, each a direct call of its arm (41_decoder.md R100 to R110; log 3). They read no
state and write none (R100); the emission of R112 is the session's and stands in FEED. -/

namespace Sys2Proof.Machine

/-- DEC.IFRESP.STATUS (41_decoder.md R102). -/
def execDecIfrespStatus (f : Frame) (s : State) : Host.Outcome State Fault Refusal :=
  .next (s.answer (.decoded (decIfrespStatus f)))

/-- DEC.IFRESP.OTHER (41_decoder.md R103). -/
def execDecIfrespOther (f : Frame) (s : State) : Host.Outcome State Fault Refusal :=
  .next (s.answer (.decoded (decIfrespOther f)))

/-- DEC.TEMP.LACROSSE (41_decoder.md R104). -/
def execDecTempLacrosse (f : Frame) (s : State) : Host.Outcome State Fault Refusal :=
  .next (s.answer (.decoded (decTemp f)))

/-- DEC.TEMP.VIKING (41_decoder.md R105). -/
def execDecTempViking (f : Frame) (s : State) : Host.Outcome State Fault Refusal :=
  .next (s.answer (.decoded (decTemp f)))

/-- DEC.LIGHTING.AC (41_decoder.md R107). -/
def execDecLightingAc (f : Frame) (s : State) : Host.Outcome State Fault Refusal :=
  .next (s.answer (.decoded (decLightingAc f)))

/-- DEC.RAW.LACROSSE (41_decoder.md R108). -/
def execDecRawLacrosse (f : Frame) (s : State) : Host.Outcome State Fault Refusal :=
  .next (s.answer (.decoded (decRawLacrosse f)))

/-- DEC.UNKNOWN (41_decoder.md R109). -/
def execDecUnknown (f : Frame) (s : State) : Host.Outcome State Fault Refusal :=
  .next (s.answer (.decoded (decUnknown f)))

/-- DEC.SHORT (41_decoder.md R110). -/
def execDecShort (f : Frame) (need : Nat) (s : State) : Host.Outcome State Fault Refusal :=
  .next (s.answer (.decoded (decShort f need)))

end Sys2Proof.Machine
end

