-- ==== Sys2Proof/Machine/Encoder.lean ====
section
/-! DEFINITION. The Packet Encoder's rows, each a direct call that returns its frame (42_encoder.md; log 3). They read no
state and write none (10_state.md R23); the session writes what it issues itself (44_session.md R174). -/

namespace Sys2Proof.Machine

/-- ENC.IFCMD.RESET (42_encoder.md R132). -/
def execEncIfcmdReset (sequence : Byte) (s : State) : Host.Outcome State Fault Refusal :=
  .next (s.answer (.frame (encIfcmd sequence .reset)))

/-- ENC.IFCMD.STATUS (42_encoder.md R133). -/
def execEncIfcmdStatus (sequence : Byte) (s : State) : Host.Outcome State Fault Refusal :=
  .next (s.answer (.frame (encIfcmd sequence .status)))

/-- ENC.IFCMD.ENABLE_ALL (42_encoder.md R134). -/
def execEncIfcmdEnableAll (sequence : Byte) (s : State) : Host.Outcome State Fault Refusal :=
  .next (s.answer (.frame (encIfcmd sequence .enableAll)))

/-- ENC.IFCMD.ENABLE_UNDECODED: encodable, written by no operation (42_encoder.md R135). -/
def execEncIfcmdEnableUndecoded (sequence : Byte) (s : State) : Host.Outcome State Fault Refusal :=
  .next (s.answer (.frame (encIfcmd sequence .enableUndecoded)))

/-- ENC.SWCMD (42_encoder.md R131). -/
def execEncSwcmd (deviceAddress : BitVec 32) (unitId : Byte) (on : Bool) (sequence : Byte) (s : State) :
    Host.Outcome State Fault Refusal :=
  .next (s.answer (.frame (encSwcmd deviceAddress unitId on sequence)))

end Sys2Proof.Machine
end

