-- ==== Sys2Proof/Machine/Session.lean ====
section
/-! DEFINITION. The host operations, the time base, the transport and reset: INIT, RUN, HALT, SETSWITCH, TICK,
TRANSPORT_FAULT, RESET (43_retransmitter.md, 44_session.md, 60_exceptions.md, 70_reset_and_hazards.md). -/

namespace Sys2Proof.Machine

/-- INIT (44_session.md R161). Enabled when `sess = Closed`. -/
def execInit (s : State) : Host.Outcome State Fault Refusal :=
  whenEnabled .init s
    (.next { issue .reset { s with sess := .initializing } with phase := .settle, timer := Config.tSettle })

/-- RUN (44_session.md R169). Enabled when `sess = Ready` and `running = 0`. -/
def execRun (s : State) : Host.Outcome State Fault Refusal :=
  whenEnabled .run s (.next { s with running := true })

/-- HALT (44_session.md R172). Enabled when `sess = Ready`. A burst in flight goes on (43_retransmitter.md R146; log 11). -/
def execHalt (s : State) : Host.Outcome State Fault Refusal :=
  whenEnabled .halt s
    (.next (({ s with running := false, sess := .stopped } : State).emitIf s.running (.runReturned .ok)))

/-- SETSWITCH (43_retransmitter.md R141). Enabled when `sess = Ready` and `tx_state = Idle`. -/
def execSetswitch (deviceAddress : BitVec 32) (unitId sequence : Byte) (on : Bool) (s : State) :
    Host.Outcome State Fault Refusal :=
  whenEnabled (.setswitch deviceAddress unitId sequence on) s
    (.next (startBurst (encSwcmd deviceAddress unitId on sequence) s))

/-- TICK (44_session.md R175): TICK.TX, then the session line of the phase at the start of the step. A timer that is 0 in
its own phase cannot be counted down (49_cross_family_laws.md R240 (d); log 12). -/
def execTick (s : State) : Host.Outcome State Fault Refusal :=
  if countersLive s then .next (tickSession (tickTx s)) else .fault .counterUnderflow

/-- TRANSPORT_FAULT (60_exceptions.md R196): the fault entry when the port is open, else no effect. -/
def execTransportFault (s : State) : Host.Outcome State Fault Refusal :=
  if portOpen s then .next (faultEntry s) else .next s

/-- RESET (70_reset_and_hazards.md R220): every piece of the block's state to its reset value. What the agents outside the
block offer stays (10_state.md R27; log 19). -/
def execReset (s : State) : Host.Outcome State Fault Refusal :=
  .next { State.reset with offers := s.offers }

end Sys2Proof.Machine
end

