-- ==== Sys2Proof/Machine/Dispatch.lean ====
section
/-! DEFINITION. The dispatch of an instruction to its meaning, one arm per constructor. -/

namespace Sys2Proof.Machine

def exec (i : Instr) (s : State) : Host.Outcome State Fault Refusal :=
  match i with
  | .feed b => Sys2Proof.Machine.execFeed b s
  | .decIfrespStatus f => Sys2Proof.Machine.execDecIfrespStatus f s
  | .decIfrespOther f => Sys2Proof.Machine.execDecIfrespOther f s
  | .decTempLacrosse f => Sys2Proof.Machine.execDecTempLacrosse f s
  | .decTempViking f => Sys2Proof.Machine.execDecTempViking f s
  | .decLightingAc f => Sys2Proof.Machine.execDecLightingAc f s
  | .decRawLacrosse f => Sys2Proof.Machine.execDecRawLacrosse f s
  | .decUnknown f => Sys2Proof.Machine.execDecUnknown f s
  | .decShort f need => Sys2Proof.Machine.execDecShort f need s
  | .encIfcmdReset sequence => Sys2Proof.Machine.execEncIfcmdReset sequence s
  | .encIfcmdStatus sequence => Sys2Proof.Machine.execEncIfcmdStatus sequence s
  | .encIfcmdEnableAll sequence => Sys2Proof.Machine.execEncIfcmdEnableAll sequence s
  | .encIfcmdEnableUndecoded sequence => Sys2Proof.Machine.execEncIfcmdEnableUndecoded sequence s
  | .encSwcmd a u on q => Sys2Proof.Machine.execEncSwcmd a u on q s
  | .init => Sys2Proof.Machine.execInit s
  | .run => Sys2Proof.Machine.execRun s
  | .halt => Sys2Proof.Machine.execHalt s
  | .setswitch a u q on => Sys2Proof.Machine.execSetswitch a u q on s
  | .tick => Sys2Proof.Machine.execTick s
  | .transportFault => Sys2Proof.Machine.execTransportFault s
  | .reset => Sys2Proof.Machine.execReset s

end Sys2Proof.Machine
end

