-- ==== Sys2Proof/Machine/Step.lean ====
section
/-! DEFINITION. One step of the machine, and the placing of a table row's word where the next step takes it. -/

namespace Sys2Proof.Machine

/-- One step: the first ready offer is decoded and handled; with none ready the block idles (44_session.md R171,
49_cross_family_laws.md R244; log 1). -/
def step (s : State) : Host.Outcome State Fault Refusal :=
  match fetch s with
  | none => .next s
  | some (word, s') =>
    match decode word with
    | .ok i => exec i s'
    | .error reason => .refused (.undecodable reason)

/-- The word of a table row's bits stands first among the offers (log 5, log 17). -/
def State.withFetchWord (s : State) (nbits w : Nat) : State :=
  match tableWord nbits w with
  | some word => { s with offers := word :: s.offers }
  | none => s

end Sys2Proof.Machine
end

