-- ==== Sys2Proof/Safety.lean ====
section
/-! DEFINITION. What counts as a safe state and a safe run, in the terms the statements use: the invariants of 10_state.md
R28 with what they need to be kept by a step, and runs of instructions. -/

namespace Sys2Proof.Machine

/-- The accumulator's part of the invariant (10_state.md R28 I1): the buffer is empty or holds an unfinished frame. It is
the canonical form of the block's one growing memory (log 6). -/
def Memory.wf (buf : Frame) : Bool :=
  match buf with
  | [] => true
  | length :: _ => decide (buf.length ≤ length.toNat)

/-- The interface commands (type 0x00) among the outputs, in order (30_encoding.md R66, R72). -/
def interfaceWrites (out : List Output) : List Frame := (txWrites out).filter fun w => w[1]? == some 0x00#8

/-- The three commands of the handshake with their sequences (70_reset_and_hazards.md R224, 44_session.md R174). -/
def handshake : List Frame :=
  [ [0x04#8, 0x00#8, 0x00#8, 0x01#8, 0x00#8],
    [0x04#8, 0x00#8, 0x00#8, 0x02#8, 0x04#8],
    [0x04#8, 0x00#8, 0x00#8, 0x03#8, 0x02#8] ]

/-- The revision a record reports. -/
def Output.revision : Output → Option Byte
  | .evStatus v => some v
  | .txWrite _ => none
  | .evTemperature _ _ _ _ _ _ => none
  | .evDeviceState _ _ _ _ => none
  | .diag _ => none
  | .initDone _ => none
  | .runReturned _ => none
  | .setSwitchDone _ => none

/-- The revision of the last `Ev(Status)` among the outputs (10_state.md R16). -/
def lastRevision (out : List Output) : Option Byte := (out.filterMap Output.revision).getLast?

/-- The record is an `InitDone`. -/
def Output.isInitDone : Output → Bool
  | .initDone _ => true
  | .txWrite _ => false
  | .evStatus _ => false
  | .evTemperature _ _ _ _ _ _ => false
  | .evDeviceState _ _ _ _ => false
  | .diag _ => false
  | .runReturned _ => false
  | .setSwitchDone _ => false

/-- How many `InitDone` records the outputs hold (49_cross_family_laws.md R242 (c)). -/
def initDoneCount (out : List Output) : Nat := out.countP Output.isInitDone

/-- How many interface commands have been sent, by the session's place in the handshake (44_session.md R161 to R168). -/
def commandsSent (s : State) : Nat :=
  match s.sess with
  | .closed => 0
  | .initializing =>
    match s.phase with
    | .settle => 1
    | .waitEnable => 2
    | .waitStatus => 3
  | .ready => 3
  | .stopped => s.ifSeq.toNat

/-- The invariants of 10_state.md R28 (I1, I3 to I7), the ranges of the timers (R18, R240 (d)), the handshake's order (R224),
what `fw_rev` records (R16), and the pairing of `InitDone` (R242 (c)). -/
structure Inv (s : State) : Prop where
  /-- I1. -/
  accumulator : Memory.wf s.rxBuf = true
  /-- I3. -/
  idle : s.txState = .idle → s.txRep = 0
  /-- I4, with the frame's origin (R19). -/
  delay : s.txState = .delay →
    1 ≤ s.txTimer ∧ s.txTimer ≤ 150 ∧ s.txRep ≤ 2 ∧ ∃ a u on q, s.txBuf = encSwcmd a u on q
  /-- A burst exists only after `Ready` was reached (R175). -/
  burst : s.txState = .delay → s.sess = .ready ∨ s.sess = .stopped
  /-- I5. -/
  loop : s.running = true → s.sess = .ready
  /-- I7, and the legal values of `err_code` (R26). -/
  error : (s.err = true → s.sess = .stopped) ∧ s.errCode = if s.err then 1#8 else 0#8
  /-- The settle timer runs (R18). -/
  settle : s.sess = .initializing → s.phase = .settle → 1 ≤ s.timer ∧ s.timer ≤ Config.tSettle
  /-- The read time-out runs (R18). -/
  wait : s.sess = .initializing → s.phase ≠ .settle → 1 ≤ s.rdTimer ∧ s.rdTimer ≤ Config.tRead
  /-- `if_seq` counts the commands sent (R15, R174). -/
  sequence : s.ifSeq.toNat = commandsSent s
  /-- After a halt or a fault at least the first command was sent. -/
  stopped : s.sess = .stopped → 1 ≤ s.ifSeq.toNat ∧ s.ifSeq.toNat ≤ 3
  /-- I6, U11, R177: the interface commands on the TX stream are the handshake's, in order, as many as `if_seq` says. -/
  commands : interfaceWrites s.out = handshake.take s.ifSeq.toNat
  /-- `fw_valid` and `fw_rev` record the last `Ev(Status)` (R16). -/
  firmware : s.fwValid = (lastRevision s.out).isSome ∧ s.fwRev = (lastRevision s.out).getD 0#8
  /-- One `InitDone` once the initialisation is over, none before. -/
  pairing : initDoneCount s.out = if s.sess = .closed ∨ s.sess = .initializing then 0 else 1

/-- The frame is one of the two outbound formats (42_encoder.md R130, R131, R136). -/
def OutboundFrame (w : Frame) : Prop :=
  (∃ sequence command, w = encIfcmd sequence command) ∨
    ∃ deviceAddress unitId on sequence, w = encSwcmd deviceAddress unitId on sequence

/-- The byte an offered word puts on the RX stream. -/
def receivedByte : OfferWord → Option Byte
  | .rxByte b => some b
  | .frame _ => none
  | .outbound _ => none
  | .hostOp _ _ _ _ _ => none
  | .tick => none
  | .transportFault => none
  | .reset => none

/-- The RX stream that is still to be received, in order (20_memory.md R40 (3), R48 O1). -/
def receivedBytes (offers : List OfferWord) : List Byte := offers.filterMap receivedByte

/-- The instructions one after another, stopping at the first fault or refusal. -/
def execAll : List Instr → State → Host.Outcome State Fault Refusal
  | [], s => .next s
  | i :: rest, s =>
    match exec i s with
    | .next t => execAll rest t
    | .fault r => .fault r
    | .refused r => .refused r

/-- How many ticks a list of instructions holds. -/
def tickCount (is : List Instr) : Nat := is.count .tick

/-- The dead fields blanked: what holds no value in this state (10_state.md R13, R18, R19, R29; U17). -/
def live (s : State) : State :=
  { s with
    phase := if s.sess = .initializing then s.phase else .settle
    timer := if s.sess = .initializing ∧ s.phase = .settle then s.timer else 0
    rdTimer := if s.sess = .initializing ∧ s.phase ≠ .settle then s.rdTimer else 0
    txBuf := if s.txState = .delay then s.txBuf else []
    txTimer := if s.txState = .delay then s.txTimer else 0 }

end Sys2Proof.Machine
end

