-- ==== Sys2Proof/Certificates/Slice0/Obligations.lean ====
section
/-! DEFINITION. The statements for the provers. Each docstring names the rules of spec/ it rests on. Every conclusion of the
form `exec i s = .next { s with … }` is at once the result, the completion and the frame of `i`: what the update does not
name is as in `s`. `reply` is the model's own field (log 3). -/

open Sys2Proof Sys2Proof.Machine

/-! Words and decoding. -/

/-- Decoding the encoded word of a well-formed instruction gives the instruction back, every operand at every value
(30_encoding.md R66, R67, R75, R78; 41_decoder.md R101). The word forms are the model's choice (log 4). -/
def Obligations.DecodeOfEncodeIsTheInstruction : Prop :=
  ∀ i : Instr, i.wellFormed = true → decode (encode i) = .ok i

/-- What the decoder answers is well formed, and apart from the host port, whose side operands INIT, RUN and HALT do not
use, its encoding is the word that was read (30_encoding.md R75, R78; log 4). -/
def Obligations.DecodedInstructionIsWellFormedAndEncodesBack : Prop :=
  ∀ (w : OfferWord) (i : Instr), decode w = .ok i →
    i.wellFormed = true ∧ ((∀ op a u q on, w ≠ .hostOp op a u q on) → encode i = w)

/-- 30_encoding.md R75 against 41_decoder.md R101: the key and mask form selects the row the dispatch selects. -/
def Obligations.KeyAndMaskFormSelectsTheDispatchRow : Prop :=
  ∀ f : Frame, 1 ≤ f.length → f.length ≤ 256 → decode (.frame f) = .ok (selectRowByKey f)

/-- Words written out from the spec: 95_test_vectors.md VD1, VD12, VD28, VD31, VE3, VE5 and the codes of R78. -/
def Obligations.SpecWordsDecodeToTheirRows : Prop :=
  decode (.rxByte 0x5A#8) = .ok (.feed 0x5A#8) ∧
  decode (.frame [0x06#8, 0x01#8, 0x00#8, 0x03#8, 0x02#8, 0x53#8, 0x2A#8]) =
    .ok (.decIfrespStatus [0x06#8, 0x01#8, 0x00#8, 0x03#8, 0x02#8, 0x53#8, 0x2A#8]) ∧
  decode (.frame [0x08#8, 0x50#8, 0x07#8, 0x2A#8, 0xAB#8, 0xCD#8, 0x80#8, 0x19#8, 0x30#8]) =
    .ok (.decTempViking [0x08#8, 0x50#8, 0x07#8, 0x2A#8, 0xAB#8, 0xCD#8, 0x80#8, 0x19#8, 0x30#8]) ∧
  decode (.frame [0x05#8, 0x03#8, 0x04#8, 0xDE#8, 0xAD#8, 0x01#8]) =
    .ok (.decRawLacrosse [0x05#8, 0x03#8, 0x04#8, 0xDE#8, 0xAD#8, 0x01#8]) ∧
  decode (.frame [0x03#8, 0xFF#8, 0x00#8, 0x00#8]) = .ok (.decUnknown [0x03#8, 0xFF#8, 0x00#8, 0x00#8]) ∧
  decode (.outbound [0x04#8, 0x00#8, 0x00#8, 0x03#8, 0x02#8]) = .ok (.encIfcmdStatus 0x03#8) ∧
  decode (.outbound [0x0C#8, 0x11#8, 0x00#8, 0x07#8, 0x01#8, 0x02#8, 0x03#8, 0x04#8, 0x05#8, 0x01#8, 0x00#8, 0x00#8, 0x00#8])
    = .ok (.encSwcmd 0x01020304#32 0x05#8 true 0x07#8) ∧
  decode (.hostOp 0#2 0#32 0#8 0#8 false) = .ok .init ∧
  decode (.hostOp 1#2 0#32 0#8 0#8 false) = .ok .run ∧
  decode (.hostOp 2#2 0#32 0#8 0#8 false) = .ok .halt ∧
  decode (.hostOp 3#2 0x01020304#32 0x05#8 0x07#8 true) = .ok (.setswitch 0x01020304#32 0x05#8 0x07#8 true)

/-- 42_encoder.md R137, 93_implementation_defined.md U6: no frame for another command code; the step that meets such a
request is refused by name (log 21). -/
def Obligations.UndefinedInterfaceCommandsAreRefused : Prop :=
  ∀ (s : State) (rest : List OfferWord) (q c : Byte),
    c ≠ 0x00#8 → c ≠ 0x02#8 → c ≠ 0x04#8 → c ≠ 0x05#8 →
    s.offers = .outbound [0x04#8, 0x00#8, 0x00#8, q, c] :: rest →
    step s = .refused (.undecodable .undefinedCommand)

/-! The step. -/

/-- Log 1 (10_state.md R20, R22; 60_exceptions.md R200): the first offered word that is ready is taken out, decoded, and
its instruction executed; words before it wait. -/
def Obligations.StepRunsTheFirstReadyOffer : Prop :=
  ∀ (s : State) (before after : List OfferWord) (w : OfferWord) (i : Instr),
    s.offers = before ++ w :: after →
    (∀ x ∈ before, ∃ j, decode x = .ok j ∧ enabled j s = false) →
    decode w = .ok i → enabled i s = true →
    step s = exec i { s with offers := before ++ after }

/-- 10_state.md R22: with every offering agent stalled, or none offering, nothing changes. -/
def Obligations.StepIdlesWhenEveryOfferIsStalled : Prop :=
  ∀ s : State, (∀ x ∈ s.offers, ∃ j, decode x = .ok j ∧ enabled j s = false) → step s = .next s

/-- 10_state.md R27, 43_retransmitter.md R148: a stalled offer is held off, not lost. A step takes at most one word out of
the list, the first that is ready, and leaves the others in order. The list is the model's form of the agents (log 1). -/
def Obligations.StepKeepsEveryStalledOffer : Prop :=
  ∀ s t : State, step s = .next t →
    t.offers = s.offers ∨
      ∃ before w after, s.offers = before ++ w :: after ∧ t.offers = before ++ after ∧
        (∀ x ∈ before, ∃ j, decode x = .ok j ∧ enabled j s = false) ∧
        ∃ i, decode w = .ok i ∧ enabled i s = true

/-- 20_memory.md R48 (O1), 10_state.md R27: bytes are fed in the order they are offered, none skipped, duplicated or
reordered. A step changes nothing, or runs an instruction that is no FEED and takes no received byte, or takes the first
received byte, in a read phase, and feeds it. -/
def Obligations.ReceivedBytesAreFedInOrder : Prop :=
  ∀ s t : State, step s = .next t →
    t = s ∨
      (∃ i, (∀ b, i ≠ .feed b) ∧ receivedBytes t.offers = receivedBytes s.offers ∧
        exec i { s with offers := t.offers } = .next t) ∨
      ∃ b, reading s = true ∧ receivedBytes s.offers = b :: receivedBytes t.offers ∧
        exec (.feed b) { s with offers := t.offers } = .next t

/-! The Frame Accumulator and the receive step. -/

/-- 10_state.md R22, 44_session.md R162, R169, R172: outside the read phases a byte has no step. -/
def Obligations.FeedHasNoStepOutsideTheReadPhases : Prop :=
  ∀ (s : State) (b : Byte),
    s.sess = .closed ∨ (s.sess = .initializing ∧ s.phase = .settle) ∨ (s.sess = .ready ∧ s.running = false) ∨
      s.sess = .stopped →
    exec (.feed b) s = .next s

/-- 40_accumulator.md R90, R91; 44_session.md R176: in a read phase, a byte that does not complete the frame is appended,
and restarts the read time-out during initialisation. -/
def Obligations.FeedAppendsToAnUnfinishedFrame : Prop :=
  ∀ (s : State) (b length : Byte),
    (s.sess = .initializing ∧ s.phase ≠ .settle) ∨ (s.sess = .ready ∧ s.running = true) →
    s.rxBuf.length < 256 → (s.rxBuf ++ [b])[0]? = some length → s.rxBuf.length + 1 ≠ length.toNat + 1 →
    exec (.feed b) s =
      .next { s with rxBuf := s.rxBuf ++ [b]
                     rdTimer := if s.sess = .initializing then Config.tRead else s.rdTimer }

/-- 40_accumulator.md R90, R97; 41_decoder.md R112; 44_session.md R173, R176: in the receive loop the byte that completes
the frame empties the buffer and emits exactly the record of its decoding; a Status is recorded. -/
def Obligations.FeedReportsACompletedFrameInReady : Prop :=
  ∀ (s : State) (b length : Byte),
    s.sess = .ready → s.running = true →
    s.rxBuf.length < 256 → (s.rxBuf ++ [b])[0]? = some length → s.rxBuf.length + 1 = length.toNat + 1 →
    (∀ v, decodeFrame (s.rxBuf ++ [b]) = .status v →
      exec (.feed b) s = .next { s with rxBuf := [], out := s.out ++ [.evStatus v], fwRev := v, fwValid := true }) ∧
    (∀ a q sign mag level low, decodeFrame (s.rxBuf ++ [b]) = .temperature a q sign mag level low →
      exec (.feed b) s = .next { s with rxBuf := [], out := s.out ++ [.evTemperature a q sign mag level low] }) ∧
    (∀ a u on level, decodeFrame (s.rxBuf ++ [b]) = .deviceState a u on level →
      exec (.feed b) s = .next { s with rxBuf := [], out := s.out ++ [.evDeviceState a u on level] }) ∧
    (∀ cause, decodeFrame (s.rxBuf ++ [b]) = .none cause →
      exec (.feed b) s = .next { s with rxBuf := [], out := s.out ++ [.diag cause] })

/-- 44_session.md R163, R165, R176: in WaitEnable a completed frame of any result is reported, then STATUS is sent. -/
def Obligations.FeedEndsTheEnableWaitWithStatus : Prop :=
  ∀ (s : State) (b length : Byte),
    s.sess = .initializing → s.phase = .waitEnable →
    s.rxBuf.length < 256 → (s.rxBuf ++ [b])[0]? = some length → s.rxBuf.length + 1 = length.toNat + 1 →
    ∃ t, exec (.feed b) s = .next t ∧
      t.out = s.out ++ [(decodeFrame (s.rxBuf ++ [b])).record,
        .txWrite [0x04#8, 0x00#8, 0x00#8, if s.ifSeq = 255#8 then 1#8 else s.ifSeq + 1#8, 0x02#8]] ∧
      t = { s with rxBuf := [], out := t.out, fwRev := t.fwRev, fwValid := t.fwValid, phase := .waitStatus
                   ifSeq := if s.ifSeq = 255#8 then 1#8 else s.ifSeq + 1#8, rdTimer := Config.tRead } ∧
      (∀ v, decodeFrame (s.rxBuf ++ [b]) = .status v → t.fwRev = v ∧ t.fwValid = true) ∧
      ((∀ v, decodeFrame (s.rxBuf ++ [b]) ≠ .status v) → t.fwRev = s.fwRev ∧ t.fwValid = s.fwValid)

/-- 44_session.md R166, R168, R176: in WaitStatus a completed frame of any result is reported, then the initialisation is
over; only a Status is recorded. -/
def Obligations.FeedEndsTheStatusWaitWithReady : Prop :=
  ∀ (s : State) (b length : Byte),
    s.sess = .initializing → s.phase = .waitStatus →
    s.rxBuf.length < 256 → (s.rxBuf ++ [b])[0]? = some length → s.rxBuf.length + 1 = length.toNat + 1 →
    ∃ t, exec (.feed b) s = .next t ∧
      t.out = s.out ++ [(decodeFrame (s.rxBuf ++ [b])).record, .initDone .ok] ∧
      t = { s with rxBuf := [], out := t.out, fwRev := t.fwRev, fwValid := t.fwValid, sess := .ready
                   rdTimer := Config.tRead } ∧
      (∀ v, decodeFrame (s.rxBuf ++ [b]) = .status v → t.fwRev = v ∧ t.fwValid = true) ∧
      ((∀ v, decodeFrame (s.rxBuf ++ [b]) ≠ .status v) → t.fwRev = s.fwRev ∧ t.fwValid = s.fwValid)

/-- 40_accumulator.md R97, 41_decoder.md R112: in every read phase a completed frame is decoded in the step that completed it,
exactly one record comes of it, before anything the end of a wait adds, and the accumulator is empty, whatever the result. -/
def Obligations.CompletedFrameGivesOneRecordAndAnEmptyBuffer : Prop :=
  ∀ (s : State) (b length : Byte),
    (s.sess = .initializing ∧ s.phase ≠ .settle) ∨ (s.sess = .ready ∧ s.running = true) →
    s.rxBuf.length < 256 → (s.rxBuf ++ [b])[0]? = some length → s.rxBuf.length + 1 = length.toNat + 1 →
    ∃ t tail, exec (.feed b) s = .next t ∧ t.rxBuf = [] ∧
      (∀ v, decodeFrame (s.rxBuf ++ [b]) = .status v → t.out = s.out ++ .evStatus v :: tail) ∧
      (∀ a q sign mag level low, decodeFrame (s.rxBuf ++ [b]) = .temperature a q sign mag level low →
        t.out = s.out ++ .evTemperature a q sign mag level low :: tail) ∧
      (∀ a u on level, decodeFrame (s.rxBuf ++ [b]) = .deviceState a u on level →
        t.out = s.out ++ .evDeviceState a u on level :: tail) ∧
      (∀ cause, decodeFrame (s.rxBuf ++ [b]) = .none cause → t.out = s.out ++ .diag cause :: tail) ∧
      ∀ o ∈ tail, (∃ w, o = .txWrite w) ∨ o = .initDone .ok

/-- 44_session.md R173: a `Status` decoded in any read phase is recorded, besides its event; no other result changes the
record, nor does any other instruction but RESET. -/
def Obligations.StatusIsRecordedInEveryReadPhase : Prop :=
  (∀ (s : State) (b length v : Byte),
    (s.sess = .initializing ∧ s.phase ≠ .settle) ∨ (s.sess = .ready ∧ s.running = true) →
    s.rxBuf.length < 256 → (s.rxBuf ++ [b])[0]? = some length → s.rxBuf.length + 1 = length.toNat + 1 →
    decodeFrame (s.rxBuf ++ [b]) = .status v →
    ∃ t, exec (.feed b) s = .next t ∧ t.fwRev = v ∧ t.fwValid = true ∧ s.out ++ [.evStatus v] <+: t.out) ∧
  (∀ (i : Instr) (s t : State), exec i s = .next t → (t.fwRev ≠ s.fwRev ∨ t.fwValid ≠ s.fwValid) →
    i = .reset ∨ ∃ b v, i = .feed b ∧ done (s.rxBuf ++ [b]) = true ∧ decodeFrame (s.rxBuf ++ [b]) = .status v)

/-- 40_accumulator.md R96 over a whole frame: from the empty buffer, a length byte and fewer payload bytes than it says
leave just those bytes in the buffer, and with the last of them the frame is decoded once and the buffer is empty. -/
def Obligations.StreamIsCutAfterTheDeclaredLength : Prop :=
  ∀ (s : State) (length : Byte) (payload : List Byte),
    s.sess = .ready → s.running = true → s.rxBuf = [] →
    (payload.length < length.toNat →
      execAll ((length :: payload).map .feed) s = .next { s with rxBuf := length :: payload }) ∧
    (payload.length = length.toNat →
      ∃ t, execAll ((length :: payload).map .feed) s = .next t ∧
        t = { s with rxBuf := [], out := s.out ++ [(decodeFrame (length :: payload)).record]
                     fwRev := t.fwRev, fwValid := t.fwValid })

/-- Log 12 (10_state.md R10): only a buffer that already holds 256 bytes, which no run reaches, makes FEED stop. -/
def Obligations.FeedStopsOnlyOnAFullBuffer : Prop :=
  ∀ (s : State) (b : Byte) (r : Fault), exec (.feed b) s = .fault r ↔
    r = .rxBufOverrun ∧ 256 ≤ s.rxBuf.length ∧
      ((s.sess = .initializing ∧ s.phase ≠ .settle) ∨ (s.sess = .ready ∧ s.running = true))

/-! The Packet Decoder. -/

/-- 41_decoder.md R102. -/
def Obligations.StatusResponseRowGivesTheRevision : Prop :=
  (∀ (f : Frame) (s : State) (v : Byte), 7 ≤ f.length → f[6]? = some v →
    exec (.decIfrespStatus f) s = .next { s with reply := some (.decoded (.status v)) }) ∧
  (∀ (f : Frame) (s : State), f.length < 7 →
    exec (.decIfrespStatus f) s = .next { s with reply := some (.decoded (.none (.short f.length 7))) }) ∧
  (∀ f : Frame, f.length ≤ 256 → f[1]? = some 0x01#8 → f[2]? = some 0x00#8 → f[4]? = some 0x02#8 →
    decode (.frame f) = .ok (if f.length < 7 then .decShort f 7 else .decIfrespStatus f) ∧
      decodeFrame f = decIfrespStatus f)

/-- 41_decoder.md R103, with R101 for the frames that select the row. That the row called on a frame below 5 bytes answers
SHORT is the model's choice (log 20, after R110): the dispatch sends such a frame to DEC.SHORT. -/
def Obligations.OtherResponseRowGivesTheCommand : Prop :=
  (∀ (f : Frame) (s : State) (c : Byte), 5 ≤ f.length → f[4]? = some c →
    exec (.decIfrespOther f) s = .next { s with reply := some (.decoded (.none (.ifrespOther c))) }) ∧
  (∀ (f : Frame) (s : State), f.length < 5 →
    exec (.decIfrespOther f) s = .next { s with reply := some (.decoded (.none (.short f.length 5))) }) ∧
  (∀ (f : Frame) (c : Byte), f.length ≤ 256 → f[1]? = some 0x01#8 → f[2]? = some 0x00#8 → f[4]? = some c → c ≠ 0x02#8 →
    decode (.frame f) = .ok (.decIfrespOther f) ∧ decodeFrame f = .none (.ifrespOther c))

/-- 41_decoder.md R104, R105; 30_encoding.md R68 to R71: both temperature rows, the address by shift and or, the
temperature as sign bit and 15-bit magnitude, the level from the high nibble, the battery flag from a zero low nibble. -/
def Obligations.TemperatureRowsExtractTheirFields : Prop :=
  (∀ (f : Frame) (s : State) (q a1 a0 t1 t0 level : Byte), 9 ≤ f.length →
    f[3]? = some q → f[4]? = some a1 → f[5]? = some a0 → f[6]? = some t1 → f[7]? = some t0 → f[8]? = some level →
    let result : Decoded := .temperature ((a1.setWidth 16 <<< 8) ||| a0.setWidth 16) q (decide (128 ≤ t1.toNat))
      (BitVec.ofNat 15 (t1.toNat % 128 * 256 + t0.toNat)) (BitVec.ofNat 8 (level.toNat / 16))
      (decide (level.toNat % 16 = 0))
    exec (.decTempLacrosse f) s = .next { s with reply := some (.decoded result) } ∧
      exec (.decTempViking f) s = .next { s with reply := some (.decoded result) }) ∧
  (∀ (f : Frame) (s : State), f.length < 9 →
    exec (.decTempLacrosse f) s = .next { s with reply := some (.decoded (.none (.short f.length 9))) } ∧
      exec (.decTempViking f) s = .next { s with reply := some (.decoded (.none (.short f.length 9))) }) ∧
  (∀ f : Frame, f.length ≤ 256 → f[1]? = some 0x50#8 →
    (f[2]? = some 0x05#8 → decode (.frame f) = .ok (if f.length < 9 then .decShort f 9 else .decTempLacrosse f)) ∧
    (f[2]? = some 0x07#8 → decode (.frame f) = .ok (if f.length < 9 then .decShort f 9 else .decTempViking f)) ∧
    (∀ st, f[2]? = some st → st ≠ 0x05#8 → st ≠ 0x07#8 → decode (.frame f) = .ok (.decUnknown f)))

/-- 41_decoder.md R107; 30_encoding.md R68, R69, R71: the address is big-endian by shift and or, any nonzero state is on. -/
def Obligations.LightingRowExtractsItsFields : Prop :=
  (∀ (f : Frame) (s : State) (a3 a2 a1 a0 u on level : Byte), 12 ≤ f.length →
    f[4]? = some a3 → f[5]? = some a2 → f[6]? = some a1 → f[7]? = some a0 → f[8]? = some u → f[9]? = some on →
    f[11]? = some level →
    exec (.decLightingAc f) s =
      .next { s with reply := some (.decoded (.deviceState
        ((a3.setWidth 32 <<< 24) ||| (a2.setWidth 32 <<< 16) ||| (a1.setWidth 32 <<< 8) ||| a0.setWidth 32) u
        (decide (on ≠ 0#8)) (BitVec.ofNat 8 (level.toNat / 16)))) }) ∧
  (∀ (f : Frame) (s : State), f.length < 12 →
    exec (.decLightingAc f) s = .next { s with reply := some (.decoded (.none (.short f.length 12))) }) ∧
  (∀ f : Frame, f.length ≤ 256 → f[1]? = some 0x11#8 →
    (f[2]? = some 0x00#8 → decode (.frame f) = .ok (if f.length < 12 then .decShort f 12 else .decLightingAc f)) ∧
    (∀ st, f[2]? = some st → st ≠ 0x00#8 → decode (.frame f) = .ok (.decUnknown f)))

/-- 41_decoder.md R108, R109: the raw row reports the whole frame, the default row the type and subtype. That the default row
called on a frame below 3 bytes answers SHORT is the model's choice (log 20): the dispatch sends such a frame to DEC.SHORT. -/
def Obligations.RawAndUnknownRowsReportWithoutAnEvent : Prop :=
  (∀ (f : Frame) (s : State),
    exec (.decRawLacrosse f) s = .next { s with reply := some (.decoded (.none (.raw f))) }) ∧
  (∀ (f : Frame) (s : State) (t st : Byte), f[1]? = some t → f[2]? = some st →
    exec (.decUnknown f) s = .next { s with reply := some (.decoded (.none (.unknown t st))) }) ∧
  (∀ (f : Frame) (s : State), f.length < 3 →
    exec (.decUnknown f) s = .next { s with reply := some (.decoded (.none (.short f.length 3))) }) ∧
  (∀ (f : Frame) (t st : Byte), f.length ≤ 256 → f[1]? = some t → f[2]? = some st →
    (t = 0x03#8 ∧ st = 0x04#8 → decode (.frame f) = .ok (.decRawLacrosse f)) ∧
    (t ≠ 0x01#8 ∧ t ≠ 0x50#8 ∧ t ≠ 0x11#8 ∧ t ≠ 0x03#8 → decode (.frame f) = .ok (.decUnknown f)))

/-- 41_decoder.md R110: the threshold that failed is reported with the size, the header's first. -/
def Obligations.ShortRowReportsSizeAndThreshold : Prop :=
  (∀ (f : Frame) (need : Nat) (s : State),
    exec (.decShort f need) s = .next { s with reply := some (.decoded (.none (.short f.length need))) }) ∧
  (∀ f : Frame, 1 ≤ f.length → f.length < 3 →
    decode (.frame f) = .ok (.decShort f 3) ∧ decodeFrame f = .none (.short f.length 3)) ∧
  (∀ f : Frame, f[1]? = some 0x01#8 → f[2]? = some 0x00#8 → f.length < 5 →
    decode (.frame f) = .ok (.decShort f 5) ∧ decodeFrame f = .none (.short f.length 5))

/-- 41_decoder.md R100, R101: of every frame, the row the decoder selects returns exactly what DECODE returns. -/
def Obligations.SelectedRowReturnsWhatDecodeReturns : Prop :=
  ∀ (f : Frame) (s : State), 1 ≤ f.length → f.length ≤ 256 →
    ∃ i, decode (.frame f) = .ok i ∧ exec i s = .next { s with reply := some (.decoded (decodeFrame f)) }

/-- 41_decoder.md R111: a frame's length byte is not looked at, whatever its size, nor a byte beyond the last its row names,
from each row's own threshold on. The raw row, which reports the whole frame (R108), is apart. -/
def Obligations.DecodeIgnoresTheLengthByteAndTrailingBytes : Prop :=
  ∀ (l l' : Byte) (body tail : List Byte),
    (¬ (body[0]? = some 0x03#8 ∧ body[1]? = some 0x04#8) → decodeFrame (l :: body) = decodeFrame (l' :: body)) ∧
    (body[0]? = some 0x01#8 → body[1]? = some 0x00#8 → body[3]? = some 0x02#8 → 7 ≤ (l :: body).length →
      decodeFrame (l :: body) = decodeFrame (l' :: (body ++ tail))) ∧
    (∀ c, body[0]? = some 0x01#8 → body[1]? = some 0x00#8 → body[3]? = some c → c ≠ 0x02#8 →
      decodeFrame (l :: body) = decodeFrame (l' :: (body ++ tail))) ∧
    (body[0]? = some 0x50#8 → body[1]? = some 0x05#8 ∨ body[1]? = some 0x07#8 → 9 ≤ (l :: body).length →
      decodeFrame (l :: body) = decodeFrame (l' :: (body ++ tail))) ∧
    (body[0]? = some 0x11#8 → body[1]? = some 0x00#8 → 12 ≤ (l :: body).length →
      decodeFrame (l :: body) = decodeFrame (l' :: (body ++ tail))) ∧
    (Frame.recognised (l :: body) = false → 3 ≤ (l :: body).length →
      decodeFrame (l :: body) = decodeFrame (l' :: (body ++ tail)))

/-- 41_decoder.md R106, 49_cross_family_laws.md R241: the temperature is the signed magnitude over ten. -/
def Obligations.TemperatureIsSignedTenths : Prop :=
  ∀ (sign : Bool) (mag : BitVec 15),
    temperatureCelsius sign mag = (if sign then (-1 : Rat) else 1) * (mag.toNat : Rat) / 10

/-! The Packet Encoder. -/

/-- 42_encoder.md R130: five bytes, and nothing of the block changes. -/
def Obligations.InterfaceCommandRowsBuildFiveBytes : Prop :=
  ∀ (q : Byte) (s : State),
    exec (.encIfcmdReset q) s = .next { s with reply := some (.frame [0x04#8, 0x00#8, 0x00#8, q, 0x00#8]) } ∧
    exec (.encIfcmdStatus q) s = .next { s with reply := some (.frame [0x04#8, 0x00#8, 0x00#8, q, 0x02#8]) } ∧
    exec (.encIfcmdEnableAll q) s = .next { s with reply := some (.frame [0x04#8, 0x00#8, 0x00#8, q, 0x04#8]) } ∧
    exec (.encIfcmdEnableUndecoded q) s = .next { s with reply := some (.frame [0x04#8, 0x00#8, 0x00#8, q, 0x05#8]) }

/-- 42_encoder.md R131: thirteen bytes, the address most significant byte first, and nothing of the block changes. -/
def Obligations.SwitchCommandRowBuildsThirteenBytes : Prop :=
  ∀ (a : BitVec 32) (u : Byte) (on : Bool) (q : Byte) (s : State),
    exec (.encSwcmd a u on q) s = .next { s with reply := some (.frame
      [0x0C#8, 0x11#8, 0x00#8, q, BitVec.ofNat 8 (a.toNat / 2 ^ 24), BitVec.ofNat 8 (a.toNat / 2 ^ 16),
        BitVec.ofNat 8 (a.toNat / 2 ^ 8), BitVec.ofNat 8 a.toNat, u, if on then 0x01#8 else 0x00#8,
        0x00#8, 0x00#8, 0x00#8]) }

/-- 42_encoder.md R138. -/
def Obligations.SwitchCommandDecodesToItsOperands : Prop :=
  ∀ (a : BitVec 32) (u : Byte) (on : Bool) (q : Byte),
    decodeFrame (encSwcmd a u on q) = .deviceState a u on 0#8

/-- 42_encoder.md R136 with R138: a switch command fed back byte by byte, in the receive loop on the empty buffer, is one
frame, reported on its last byte with the operands it was built from. -/
def Obligations.SwitchCommandFedBackIsReportedOnce : Prop :=
  ∀ (a : BitVec 32) (u : Byte) (on : Bool) (q : Byte) (s : State),
    s.sess = .ready → s.running = true → s.rxBuf = [] →
    execAll ((encSwcmd a u on q).map .feed) s = .next { s with out := s.out ++ [.evDeviceState a u on 0#8] }

/-- 10_state.md R15: `next_seq`, over the whole range, and never 0. -/
def Obligations.NextSequenceWrapsPastZero : Prop :=
  ∀ q : Byte, (nextSeq q).toNat = (if q.toNat = 255 then 1 else q.toNat + 1) ∧ nextSeq q ≠ 0#8

/-! The host operations. -/

/-- 44_session.md R161. -/
def Obligations.InitOpensAndSendsReset : Prop :=
  (∀ s : State, s.sess = .closed →
    exec .init s = .next { s with
      sess := .initializing
      ifSeq := if s.ifSeq = 255#8 then 1#8 else s.ifSeq + 1#8
      out := s.out ++ [.txWrite [0x04#8, 0x00#8, 0x00#8, if s.ifSeq = 255#8 then 1#8 else s.ifSeq + 1#8, 0x00#8]]
      phase := .settle
      timer := Config.tSettle }) ∧
  (∀ s : State, s.sess ≠ .closed → exec .init s = .next s)

/-- 44_session.md R169. -/
def Obligations.RunStartsTheReceiveLoop : Prop :=
  (∀ s : State, s.sess = .ready → s.running = false → exec .run s = .next { s with running := true }) ∧
  (∀ s : State, s.sess ≠ .ready ∨ s.running = true → exec .run s = .next s)

/-- 44_session.md R172: HALT changes `running` and `sess` alone. That a burst in flight stays as it is and goes on is
43_retransmitter.md R146, the spec's own reading, doubtful by 93_implementation_defined.md U1 (log 11). -/
def Obligations.HaltStopsTheSession : Prop :=
  (∀ s : State, s.sess = .ready → s.running = true →
    exec .halt s = .next { s with running := false, sess := .stopped, out := s.out ++ [.runReturned .ok] }) ∧
  (∀ s : State, s.sess = .ready → s.running = false → exec .halt s = .next { s with sess := .stopped }) ∧
  (∀ s : State, s.sess ≠ .ready → exec .halt s = .next s)

/-- 43_retransmitter.md R141: SETSWITCH where it is enabled. -/
def Obligations.SetSwitchWritesOnceAndStartsTheDelay : Prop :=
  ∀ (a : BitVec 32) (u q : Byte) (on : Bool) (s : State), s.sess = .ready → s.txState = .idle →
    exec (.setswitch a u q on) s = .next { s with
      txBuf := encSwcmd a u on q
      out := s.out ++ [.txWrite (encSwcmd a u on q)]
      txRep := 2
      txTimer := 150
      txState := .delay }

/-- 43_retransmitter.md R148: while a burst is in flight, and outside `Ready`, a switch command has no step, and a step of the
machine keeps its word among the offers. -/
def Obligations.SwitchCommandWaitsForTheBurst : Prop :=
  ∀ (a : BitVec 32) (u q : Byte) (on : Bool) (s : State), s.sess ≠ .ready ∨ s.txState ≠ .idle →
    exec (.setswitch a u q on) s = .next s ∧
    ∀ t, step s = .next t →
      t.offers.count (.hostOp 3#2 a u q on) = s.offers.count (.hostOp 3#2 a u q on)

/-! Time. -/

/-- 43_retransmitter.md R142: the burst on a tick, in every session state; outside `Initializing`, where alone a burst exists
(R175), nothing else changes. That it goes on in `Stopped`, after a HALT inside it, is R146, the spec's own reading, doubtful
by 93_implementation_defined.md U1 (log 11). -/
def Obligations.TickCarriesTheBurst : Prop :=
  (∀ s : State, s.txState = .delay → countersLive s = true →
    ∃ t, exec .tick s = .next t ∧ t.txBuf = s.txBuf ∧
      (1 < s.txTimer → t.txTimer = s.txTimer - 1 ∧ t.txRep = s.txRep ∧ t.txState = .delay) ∧
      (s.txTimer = 1 → 0 < s.txRep → t.txTimer = 150 ∧ t.txRep = s.txRep - 1 ∧ t.txState = .delay ∧
        s.out ++ [.txWrite s.txBuf] <+: t.out) ∧
      (s.txTimer = 1 → s.txRep = 0 → t.txState = .idle ∧ t.txRep = 0 ∧ s.out ++ [.setSwitchDone .ok] <+: t.out)) ∧
  (∀ s : State, s.txState = .delay → s.sess ≠ .initializing →
    (1 < s.txTimer → exec .tick s = .next { s with txTimer := s.txTimer - 1 }) ∧
    (s.txTimer = 1 → 0 < s.txRep →
      exec .tick s = .next { s with out := s.out ++ [.txWrite s.txBuf], txRep := s.txRep - 1, txTimer := 150 }) ∧
    (s.txTimer = 1 → s.txRep = 0 →
      exec .tick s = .next { s with txTimer := 0, txState := .idle, out := s.out ++ [.setSwitchDone .ok] }))

/-- 44_session.md R171, R175: with no burst, in `Closed`, `Ready` and `Stopped`, a tick changes nothing. -/
def Obligations.TickIsIdleOutsideInitialisation : Prop :=
  ∀ s : State, s.sess ≠ .initializing → s.txState = .idle → exec .tick s = .next s

/-- 44_session.md R162: the settle phase counts down, and at 0 sends ENABLE_ALL. -/
def Obligations.TickEndsTheSettlePhaseWithEnableAll : Prop :=
  ∀ s : State, s.sess = .initializing → s.phase = .settle → s.txState = .idle →
    (1 < s.timer → exec .tick s = .next { s with timer := s.timer - 1 }) ∧
    (s.timer = 1 →
      exec .tick s = .next { s with
        timer := 0
        ifSeq := if s.ifSeq = 255#8 then 1#8 else s.ifSeq + 1#8
        out := s.out ++ [.txWrite [0x04#8, 0x00#8, 0x00#8, if s.ifSeq = 255#8 then 1#8 else s.ifSeq + 1#8, 0x04#8]]
        phase := .waitEnable
        rdTimer := Config.tRead })

/-- 44_session.md R164, R165, R167, R168: the read time-outs; the received bytes are kept. -/
def Obligations.TickEndsTheWaitsOnTimeOut : Prop :=
  ∀ s : State, s.sess = .initializing → s.txState = .idle →
    (s.phase ≠ .settle → 1 < s.rdTimer → exec .tick s = .next { s with rdTimer := s.rdTimer - 1 }) ∧
    (s.phase = .waitEnable → s.rdTimer = 1 →
      exec .tick s = .next { s with
        ifSeq := if s.ifSeq = 255#8 then 1#8 else s.ifSeq + 1#8
        out := s.out ++ [.txWrite [0x04#8, 0x00#8, 0x00#8, if s.ifSeq = 255#8 then 1#8 else s.ifSeq + 1#8, 0x02#8]]
        phase := .waitStatus
        rdTimer := Config.tRead }) ∧
    (s.phase = .waitStatus → s.rdTimer = 1 →
      exec .tick s = .next { s with rdTimer := 0, sess := .ready, out := s.out ++ [.initDone .ok] })

/-- Log 12 (49_cross_family_laws.md R240 (d)): a tick stops exactly when a timer is 0 in the phase that counts it. -/
def Obligations.TickStopsOnlyOnAnExhaustedTimer : Prop :=
  ∀ (s : State) (r : Fault), exec .tick s = .fault r ↔
    r = .counterUnderflow ∧
      ((s.txState = .delay ∧ s.txTimer = 0) ∨
        (s.sess = .initializing ∧ s.phase = .settle ∧ s.timer = 0) ∨
        (s.sess = .initializing ∧ s.phase ≠ .settle ∧ s.rdTimer = 0))

/-! The fault entry and reset. -/

/-- 60_exceptions.md R196, R202; 43_retransmitter.md R147: the fault entry, its records in order, and no effect when the
port is closed. -/
def Obligations.TransportFaultStopsTheSession : Prop :=
  (∀ s : State, s.sess = .initializing ∨ s.sess = .ready →
    exec .transportFault s = .next { s with
      err := true
      errCode := 1#8
      running := false
      txState := .idle
      txRep := 0
      sess := .stopped
      out := s.out ++ (if s.sess = .initializing then [.initDone .err] else [])
        ++ (if s.running = true then [.runReturned .err] else [])
        ++ (if s.txState = .delay then [.setSwitchDone .err] else []) }) ∧
  (∀ s : State, s.sess = .closed ∨ s.sess = .stopped → exec .transportFault s = .next s)

/-- 70_reset_and_hazards.md R220 with the table of 10_state.md R29. The cells R29 gives no value are not named. -/
def Obligations.ResetWritesTheResetTable : Prop :=
  ∀ s : State, ∃ t, exec .reset s = .next t ∧
    t.sess = .closed ∧ t.running = false ∧ t.rxBuf = [] ∧ t.ifSeq = 0#8 ∧ t.fwRev = 0#8 ∧ t.fwValid = false ∧
    t.err = false ∧ t.errCode = 0#8 ∧ t.txState = .idle ∧ t.txRep = 0 ∧ t.out = []

/-- 10_state.md R29: the state right after reset has the table's values. -/
def Obligations.ResetStateHoldsTheResetTable : Prop :=
  State.reset.sess = .closed ∧ State.reset.running = false ∧ State.reset.rxBuf = [] ∧ State.reset.ifSeq = 0#8 ∧
  State.reset.fwRev = 0#8 ∧ State.reset.fwValid = false ∧ State.reset.err = false ∧ State.reset.errCode = 0#8 ∧
  State.reset.txState = .idle ∧ State.reset.txRep = 0 ∧ State.reset.out = []

/-- Log 19 (10_state.md R27): no operation touches what the agents outside the block offer. -/
def Obligations.NoInstructionTouchesTheOffers : Prop :=
  ∀ (i : Instr) (s t : State), exec i s = .next t → t.offers = s.offers

/-! Rules of the whole machine. -/

/-- 10_state.md R28, with R15, R16, R174, R177, R224, R242 (c): every step keeps the invariant. -/
def Obligations.EveryStepKeepsTheInvariant : Prop :=
  ∀ s t : State, Inv s → step s = .next t → Inv t

/-- The state right after reset meets the invariant of `EveryStepKeepsTheInvariant` (10_state.md R28, R29). -/
def Obligations.ResetStateMeetsTheInvariant : Prop :=
  Inv State.reset

/-- 40_accumulator.md R90, 49_cross_family_laws.md R240 (d): in a state that meets the invariant no step faults, so the
model's two faults (log 12) are out of reach. -/
def Obligations.NoStepFaultsUnderTheInvariant : Prop :=
  ∀ (s : State) (r : Fault), Inv s → step s ≠ .fault r

/-- Log 21: a step is refused only for an offered word that is no instruction. -/
def Obligations.StepRefusesOnlyUndecodableWords : Prop :=
  ∀ (s : State) (r : Refusal), step s = .refused r →
    ∃ w e, w ∈ s.offers ∧ decode w = .error e ∧ r = .undecodable e

/-- 44_session.md R160: the transitions of `sess` and `phase`, and no others. -/
def Obligations.SessionTakesOnlyTheListedTransitions : Prop :=
  ∀ (i : Instr) (s t : State), exec i s = .next t →
    (t.sess = s.sess ∨
      (i = .init ∧ s.sess = .closed ∧ t.sess = .initializing ∧ t.phase = .settle) ∨
      ((i = .tick ∨ ∃ b, i = .feed b) ∧ s.sess = .initializing ∧ s.phase = .waitStatus ∧ t.sess = .ready) ∨
      (i = .halt ∧ s.sess = .ready ∧ t.sess = .stopped) ∨
      (i = .transportFault ∧ (s.sess = .initializing ∨ s.sess = .ready) ∧ t.sess = .stopped) ∨
      (i = .reset ∧ t.sess = .closed)) ∧
    (s.sess = .initializing → t.sess = .initializing →
      t.phase = s.phase ∨
        (i = .tick ∧ s.phase = .settle ∧ t.phase = .waitEnable) ∨
        ((i = .tick ∨ ∃ b, i = .feed b) ∧ s.phase = .waitEnable ∧ t.phase = .waitStatus))

/-- 10_state.md R17, 60_exceptions.md R202: `err` is set by the fault entry alone, and cleared by RESET alone. -/
def Obligations.ErrorIsStickyUntilReset : Prop :=
  ∀ (i : Instr) (s t : State), exec i s = .next t →
    (s.err = false → t.err = true → i = .transportFault ∧ (s.sess = .initializing ∨ s.sess = .ready) ∧ t.errCode = 1#8) ∧
    (s.err = true → t.err = false → i = .reset) ∧
    (t.err = s.err → t.errCode = s.errCode ∨ i = .reset ∨ i = .transportFault)

/-- 00_scope.md R6, 10_state.md R21: a step only appends to the output trace; RESET alone starts it anew (log 10). -/
def Obligations.OutputsAreOnlyAppended : Prop :=
  ∀ (i : Instr) (s t : State), i ≠ .reset → exec i s = .next t → s.out <+: t.out

/-- 60_exceptions.md R205: the receive path touches nothing of the transmit side, and outside the handshake a tick and a
switch command touch nothing of the receive side. -/
def Obligations.ReceivePathAndBurstShareNoState : Prop :=
  (∀ (b : Byte) (s t : State), exec (.feed b) s = .next t →
    t.txBuf = s.txBuf ∧ t.txState = s.txState ∧ t.txRep = s.txRep ∧ t.txTimer = s.txTimer) ∧
  (∀ (i : Instr) (s t : State), (i = .tick ∧ s.sess ≠ .initializing) ∨ (∃ a u q on, i = .setswitch a u q on) →
    exec i s = .next t →
    t.rxBuf = s.rxBuf ∧ t.fwRev = s.fwRev ∧ t.fwValid = s.fwValid ∧ t.rdTimer = s.rdTimer ∧ t.timer = s.timer ∧
      t.phase = s.phase ∧ t.sess = s.sess ∧ t.running = s.running ∧ t.ifSeq = s.ifSeq ∧ t.err = s.err)

/-- 10_state.md R13, R18, R19, R29; 93_implementation_defined.md U17: the cells that hold no value are never read. Blanking
them changes neither the kind of the outcome nor anything live in the next state, whatever the instruction. -/
def Obligations.DeadCellsAreNeverRead : Prop :=
  ∀ (i : Instr) (s : State),
    (∀ t, exec i s = .next t → ∃ t', exec i (live s) = .next t' ∧ live t' = live t) ∧
    (∀ r, exec i s = .fault r → exec i (live s) = .fault r) ∧
    (∀ r, exec i s ≠ .refused r)

/-- 42_encoder.md R136, 43_retransmitter.md R140: every frame on the TX stream is one of the two outbound formats, a whole
interface command or a whole switch command, its first byte the count of the bytes after it. -/
def Obligations.EveryWriteIsOneWholeFrame : Prop :=
  (∀ s t : State, Inv s → (∀ w ∈ txWrites s.out, OutboundFrame w) → step s = .next t →
    ∀ w ∈ txWrites t.out, OutboundFrame w) ∧
  (∀ w, OutboundFrame w → (w.length = 5 ∨ w.length = 13) ∧ w[0]? = some (BitVec.ofNat 8 (w.length - 1)))

/-- 43_retransmitter.md R142 to R144: within one burst, whatever else is offered between its ticks (no RESET, no transport
fault, and by U1 no HALT, log 11), after `n < 450` ticks exactly `1 + n / 150` equal writes were made, and the 450th tick ends the
burst with `SetSwitchDone(ok)` and no further write. -/
def Obligations.BurstMakesThreeWritesOneHundredFiftyTicksApart : Prop :=
  ∀ (s : State) (a : BitVec 32) (u q : Byte) (on : Bool) (is : List Instr),
    Inv s → s.sess = .ready → s.txState = .idle →
    Instr.reset ∉ is → Instr.transportFault ∉ is → Instr.halt ∉ is →
    (tickCount is < 450 →
      ∃ t, execAll (.setswitch a u q on :: is) s = .next t ∧ t.txState = .delay ∧
        txWrites t.out = txWrites s.out ++ List.replicate (1 + tickCount is / 150) (encSwcmd a u on q) ∧
        t.txRep = 2 - tickCount is / 150 ∧ t.txTimer = 150 - tickCount is % 150) ∧
    (tickCount is = 449 →
      ∃ t, execAll (.setswitch a u q on :: is ++ [.tick]) s = .next t ∧ t.txState = .idle ∧
        txWrites t.out = txWrites s.out ++ List.replicate 3 (encSwcmd a u on q) ∧
        ∃ before, t.out = before ++ [.setSwitchDone .ok])

/-- 44_session.md R161 to R168 with a silent transceiver (95_test_vectors.md P2): ENABLE_ALL by tick `T_SETTLE`, STATUS by
tick `T_SETTLE + T_READ`, `InitDone(ok)` by tick `T_SETTLE + 2 × T_READ`, whatever the two parameters are. That none comes
before its tick follows from `TickEndsTheSettlePhaseWithEnableAll` and `TickEndsTheWaitsOnTimeOut`. -/
def Obligations.SilentHandshakeReachesReady : Prop :=
  ∀ s : State, s.sess = .closed → s.txState = .idle → s.ifSeq = 0#8 →
    (∃ t, execAll (.init :: List.replicate Config.tSettle .tick) s = .next t ∧
      t.sess = .initializing ∧ t.phase = .waitEnable ∧ t.out = s.out ++ (handshake.take 2).map .txWrite) ∧
    (∃ t, execAll (.init :: List.replicate (Config.tSettle + Config.tRead) .tick) s = .next t ∧
      t.sess = .initializing ∧ t.phase = .waitStatus ∧ t.out = s.out ++ handshake.map .txWrite) ∧
    (∃ t, execAll (.init :: List.replicate (Config.tSettle + 2 * Config.tRead) .tick) s = .next t ∧
      t.sess = .ready ∧ t.running = s.running ∧ t.ifSeq = 3#8 ∧ t.rxBuf = s.rxBuf ∧ t.fwValid = s.fwValid ∧
      t.out = s.out ++ handshake.map .txWrite ++ [.initDone .ok])

/-- 10_state.md R26, R22; 60_exceptions.md R207: the status outputs are copies of state, `port_open` and `rx_ready` follow it. -/
def Obligations.StatusOutputsFollowTheState : Prop :=
  ∀ s : State,
    ((statusOutputs s).portOpen = true ↔ s.sess = .initializing ∨ s.sess = .ready) ∧
    ((statusOutputs s).txBusy = true ↔ s.txState ≠ .idle) ∧
    ((statusOutputs s).rxReady = true ↔
      (s.sess = .initializing ∧ (s.phase = .waitEnable ∨ s.phase = .waitStatus)) ∨
        (s.sess = .ready ∧ s.running = true)) ∧
    (statusOutputs s).running = s.running ∧ (statusOutputs s).fwRev = s.fwRev ∧
    (statusOutputs s).fwValid = s.fwValid ∧ (statusOutputs s).err = s.err ∧ (statusOutputs s).errCode = s.errCode ∧
    ((statusOutputs s).sess = 0#2 ↔ s.sess = .closed) ∧ ((statusOutputs s).sess = 1#2 ↔ s.sess = .initializing) ∧
    ((statusOutputs s).sess = 2#2 ↔ s.sess = .ready) ∧ ((statusOutputs s).sess = 3#2 ↔ s.sess = .stopped)
end

