-- ==== Sys2Proof/Laws/Operands.lean ====
section
/-! SUPPORT. The arithmetic of frame access: what the big-endian joins, byte splits, nibbles and slices are as numbers. -/

namespace Sys2Proof.Machine

theorem join16_toNat (a b : Byte) : (join16 a b).toNat = a.toNat * 256 + b.toNat := by
  have hb := b.isLt
  simp only [join16, BitVec.toNat_append]
  rw [← Nat.shiftLeft_add_eq_or_of_lt hb, Nat.shiftLeft_eq]

theorem join32_toNat (a b c d : Byte) :
    (join32 a b c d).toNat = ((a.toNat * 256 + b.toNat) * 256 + c.toNat) * 256 + d.toNat := by
  have hcd := (join16 c d).isLt
  simp only [join32, BitVec.toNat_append]
  rw [← Nat.shiftLeft_add_eq_or_of_lt hcd, Nat.shiftLeft_eq, join16_toNat, join16_toNat]
  omega

/-- The join of two bytes as a shift and an or (30_encoding.md R68). -/
theorem join16_eq_or (a b : Byte) : join16 a b = (a.setWidth 16 <<< 8) ||| b.setWidth 16 := by
  have ha := a.isLt
  have hb := b.isLt
  apply BitVec.eq_of_toNat_eq
  rw [join16_toNat]
  simp only [BitVec.toNat_or, BitVec.toNat_shiftLeft, BitVec.toNat_setWidth]
  rw [Nat.mod_eq_of_lt (a := a.toNat) (by omega), Nat.mod_eq_of_lt (a := b.toNat) (by omega), Nat.shiftLeft_eq,
    Nat.mod_eq_of_lt (a := _ * _) (by omega), ← Nat.shiftLeft_eq, ← Nat.shiftLeft_add_eq_or_of_lt (by omega),
    Nat.shiftLeft_eq]

/-- An or of a shifted part and a part below it is their sum. -/
theorem shiftLeft_or_of_lt {hi lo k : Nat} (h : lo < 2 ^ k) : (hi * 2 ^ k) ||| lo = hi * 2 ^ k + lo := by
  rw [← Nat.shiftLeft_eq, ← Nat.shiftLeft_add_eq_or_of_lt h]

/-- The join of four bytes as shifts and ors (30_encoding.md R68). -/
theorem join32_eq_or (a b c d : Byte) :
    join32 a b c d =
      (a.setWidth 32 <<< 24) ||| (b.setWidth 32 <<< 16) ||| (c.setWidth 32 <<< 8) ||| d.setWidth 32 := by
  have ha := a.isLt
  have hb := b.isLt
  have hc := c.isLt
  have hd := d.isLt
  apply BitVec.eq_of_toNat_eq
  rw [join32_toNat]
  simp only [BitVec.toNat_or, BitVec.toNat_shiftLeft, BitVec.toNat_setWidth, Nat.shiftLeft_eq]
  rw [Nat.mod_eq_of_lt (a := a.toNat) (by omega), Nat.mod_eq_of_lt (a := b.toNat) (by omega),
    Nat.mod_eq_of_lt (a := c.toNat) (by omega), Nat.mod_eq_of_lt (a := d.toNat) (by omega),
    Nat.mod_eq_of_lt (a := _ * _) (by omega), Nat.mod_eq_of_lt (a := _ * _) (by omega),
    Nat.mod_eq_of_lt (a := _ * _) (by omega), shiftLeft_or_of_lt (by omega),
    show a.toNat * 2 ^ 24 + b.toNat * 2 ^ 16 = (a.toNat * 2 ^ 8 + b.toNat) * 2 ^ 16 by omega,
    shiftLeft_or_of_lt (by omega),
    show (a.toNat * 2 ^ 8 + b.toNat) * 2 ^ 16 + c.toNat * 2 ^ 8 =
      ((a.toNat * 2 ^ 8 + b.toNat) * 2 ^ 8 + c.toNat) * 2 ^ 8 by omega,
    shiftLeft_or_of_lt (by omega)]
  omega

theorem byteOf32_toNat (v : BitVec 32) (j : Nat) : (byteOf32 v j).toNat = v.toNat / 2 ^ (8 * (3 - j)) % 256 := by
  simp [byteOf32, Nat.shiftRight_eq_div_pow]

/-- The four bytes of a value, joined, are the value (20_memory.md R41). -/
theorem join32_byteOf32 (v : BitVec 32) :
    join32 (byteOf32 v 0) (byteOf32 v 1) (byteOf32 v 2) (byteOf32 v 3) = v := by
  apply BitVec.eq_of_toNat_eq
  have := v.isLt
  rw [join32_toNat]
  simp only [byteOf32_toNat]
  norm_num
  omega

/-- Each byte of four joined bytes is the byte that was put there (20_memory.md R41). -/
theorem byteOf32_join32 (a b c d : Byte) :
    byteOf32 (join32 a b c d) 0 = a ∧ byteOf32 (join32 a b c d) 1 = b ∧
      byteOf32 (join32 a b c d) 2 = c ∧ byteOf32 (join32 a b c d) 3 = d := by
  have := a.isLt
  have := b.isLt
  have := c.isLt
  have := d.isLt
  refine ⟨?_, ?_, ?_, ?_⟩ <;> apply BitVec.eq_of_toNat_eq <;> rw [byteOf32_toNat, join32_toNat] <;>
    norm_num <;> omega

theorem signalLevel_toNat (v : Byte) : (signalLevel v).toNat = v.toNat / 16 := by
  have := v.isLt
  simp [signalLevel, highNibble, Nat.shiftRight_eq_div_pow]
  omega

theorem lowNibble_toNat (v : Byte) : (lowNibble v).toNat = v.toNat % 16 := by
  simp [lowNibble]

theorem batteryLow_eq (v : Byte) : batteryLow v = decide (v.toNat % 16 = 0) := by
  simp only [batteryLow, ← BitVec.toNat_inj, lowNibble_toNat, BEq.beq, BitVec.toNat_ofNat]

theorem tempMagnitude_toNat (raw : BitVec 16) : (tempMagnitude raw).toNat = raw.toNat % 32768 := by
  simp [tempMagnitude]

theorem tempSign_eq (raw : BitVec 16) : tempSign raw = decide (32768 ≤ raw.toNat) := by
  have := raw.isLt
  rw [tempSign, BitVec.getLsbD, Nat.testBit_eq_decide_div_mod_eq]
  congr 1
  apply propext
  omega

end Sys2Proof.Machine
end

