-- ==== Sys2Proof/Laws/Codec.lean ====
section
/-! SUPPORT. The pure components: the encoders' frames as literal lists, and when the decoder's checks pass. -/

namespace Sys2Proof.Machine

/-- ENC.IFCMD's five bytes (42_encoder.md R130). -/
theorem encIfcmd_eq (sequence : Byte) (command : IfCommand) :
    encIfcmd sequence command = [0x04#8, 0x00#8, 0x00#8, sequence, command.code] := rfl

/-- ENC.SWCMD's thirteen bytes (42_encoder.md R131). -/
theorem encSwcmd_eq (a : BitVec 32) (u : Byte) (on : Bool) (q : Byte) :
    encSwcmd a u on q =
      [0x0C#8, 0x11#8, 0x00#8, q, byteOf32 a 0, byteOf32 a 1, byteOf32 a 2, byteOf32 a 3, u, stateCode on,
        0x00#8, 0x00#8, 0x00#8] := rfl

@[simp] theorem encSwcmd_length (a : BitVec 32) (u : Byte) (on : Bool) (q : Byte) : (encSwcmd a u on q).length = 13 := rfl

/-- The two outbound formats' sizes and length bytes (42_encoder.md R136). -/
theorem encIfcmd_sized (sequence : Byte) (command : IfCommand) :
    (encIfcmd sequence command).length = 5 ∧ (encIfcmd sequence command)[0]? = some 0x04#8 := ⟨rfl, rfl⟩

theorem encSwcmd_sized (a : BitVec 32) (u : Byte) (on : Bool) (q : Byte) :
    (encSwcmd a u on q).length = 13 ∧ (encSwcmd a u on q)[0]? = some 0x0C#8 := ⟨rfl, rfl⟩

/-- A check that fails gives SHORT (41_decoder.md R110). -/
theorem checked_short {f : Frame} {need : Nat} (h : f.length < need) (read : Option Decoded) :
    checked f need read = .none (.short f.length need) := by
  simp [checked, h]

/-- A check that passes gives the arm's result (41_decoder.md R110). -/
theorem checked_some {f : Frame} {need : Nat} (h : ¬ f.length < need) (r : Decoded) : checked f need (some r) = r := by
  simp [checked, h]

/-- A read inside the frame answers (20_memory.md R43). -/
theorem memRead8_some {f : Frame} {off : Nat} (h : off < f.length) : memRead8 f off = some f[off] := by
  simp [memRead8, h]

/-- The outcomes of the dispatch of 41_decoder.md R101 on a frame with a header. -/
theorem decodeFrame_header {f : Frame} {t s : Byte} (ht : f[1]? = some t) (hs : f[2]? = some s) :
    decodeFrame f =
      if t = 0x01#8 ∧ s = 0x00#8 then
        if f.length < 5 then .none (.short f.length 5)
        else if f[4]? = some 0x02#8 then decIfrespStatus f else decIfrespOther f
      else if t = 0x50#8 ∧ s = 0x05#8 then decTemp f
      else if t = 0x50#8 ∧ s = 0x07#8 then decTemp f
      else if t = 0x11#8 ∧ s = 0x00#8 then decLightingAc f
      else if t = 0x03#8 ∧ s = 0x04#8 then decRawLacrosse f
      else decUnknown f := by
  have hl : ¬ f.length < 3 := by
    have := (List.getElem?_eq_some_iff.mp hs).1
    omega
  simp only [decodeFrame, checked, hl, if_false, memRead8, ht, hs, Option.bind_eq_bind, Option.bind_some,
    Option.pure_def]
  by_cases h5 : f.length < 5
  · simp only [h5, if_true]
    split_ifs <;> rfl
  · obtain ⟨c, hc⟩ : ∃ c, f[4]? = some c := ⟨f[4], by simp⟩
    simp only [h5, if_false, hc, Option.bind_some]
    split_ifs <;> simp_all

/-- A frame without a header is SHORT (41_decoder.md R110). -/
theorem decodeFrame_headless {f : Frame} (h : f.length < 3) : decodeFrame f = .none (.short f.length 3) :=
  checked_short h _

/-- Two keys are equal when their parts are. -/
theorem append_byte_inj (x y : BitVec 16) (c d : Byte) : (x ++ c = y ++ d) ↔ x = y ∧ c = d := by
  constructor
  · intro h
    have k : ∀ (x : BitVec 16) (c : Byte), (x ++ c : BitVec 24).toNat = x.toNat * 256 + c.toNat := by
      intro x c
      rw [BitVec.toNat_append, ← Nat.shiftLeft_add_eq_or_of_lt c.isLt, Nat.shiftLeft_eq]
    rw [← BitVec.toNat_inj, k, k] at h
    have := c.isLt
    have := d.isLt
    exact ⟨BitVec.eq_of_toNat_eq (by omega), BitVec.eq_of_toNat_eq (by omega)⟩
  · rintro ⟨rfl, rfl⟩
    rfl

theorem join16_inj (a b c d : Byte) : join16 a b = join16 c d ↔ a = c ∧ b = d := by
  constructor
  · intro h
    rw [← BitVec.toNat_inj, join16_toNat, join16_toNat] at h
    have := b.isLt
    have := d.isLt
    exact ⟨BitVec.eq_of_toNat_eq (by omega), BitVec.eq_of_toNat_eq (by omega)⟩
  · rintro ⟨rfl, rfl⟩
    rfl

/-- The mask of rows 2 to 6 keeps the type and subtype (30_encoding.md R75). -/
theorem key_masked (x : BitVec 16) (c : Byte) : (x ++ c) &&& 0xFFFF00#24 = x ++ 0#8 := by
  have e : (0xFFFF00#24 : BitVec 24) = BitVec.allOnes 16 ++ 0#8 := by decide
  rw [e]
  ext i hi
  simp only [BitVec.getElem_and, BitVec.getElem_append, BitVec.getElem_allOnes, BitVec.getElem_zero]
  split <;> simp

end Sys2Proof.Machine
end

