-- ==== Sys2Proof/Laws/Memory.lean ====
section
/-! SUPPORT. The accumulator: what one append does, and that it keeps the buffer's form (40_accumulator.md R90 to R93). -/

namespace Sys2Proof.Machine

@[simp] theorem done_nil : done [] = false := rfl

theorem done_cons (length : Byte) (rest : Frame) : done (length :: rest) = decide (rest.length = length.toNat) := by
  simp only [done, List.length_cons]
  rw [Bool.eq_iff_iff]
  simp

/-- FEED's append in a buffer that lacks more than this byte (40_accumulator.md R90). -/
theorem accumulate_unfinished (b : Byte) (buf : Frame) (h : done (buf ++ [b]) = false) :
    accumulate b buf = (none, buf ++ [b]) := by
  simp [accumulate, h]

/-- FEED's append of the last byte: the frame is handed over and the buffer emptied (40_accumulator.md R90). -/
theorem accumulate_finished (b : Byte) (buf : Frame) (h : done (buf ++ [b]) = true) :
    accumulate b buf = (some (buf ++ [b]), []) := by
  simp [accumulate, h]

/-- The two outcomes of FEED's append (40_accumulator.md R90). -/
theorem accumulate_cases (b : Byte) (buf : Frame) :
    (done (buf ++ [b]) = false ∧ accumulate b buf = (none, buf ++ [b])) ∨
      (done (buf ++ [b]) = true ∧ accumulate b buf = (some (buf ++ [b]), [])) := by
  cases h : done (buf ++ [b])
  · exact .inl ⟨rfl, accumulate_unfinished b buf h⟩
  · exact .inr ⟨rfl, accumulate_finished b buf h⟩

/-- A buffer in form has room for one more byte (40_accumulator.md R93). -/
theorem Memory.wf_length {buf : Frame} (h : Memory.wf buf = true) : buf.length < 256 := by
  cases buf with
  | nil => simp
  | cons length rest =>
    have hb := length.isLt
    simp only [Memory.wf, List.length_cons, decide_eq_true_eq] at h
    simp only [List.length_cons]
    omega

/-- FEED's append keeps the buffer's form (10_state.md R28 I1). -/
theorem accumulate_keeps_wf (b : Byte) (buf : Frame) (h : Memory.wf buf = true) :
    Memory.wf (accumulate b buf).2 = true := by
  rcases accumulate_cases b buf with ⟨hd, he⟩ | ⟨-, he⟩ <;> rw [he]
  · cases buf with
    | nil =>
      simp only [List.nil_append, done_cons, List.length_nil, decide_eq_false_iff_not] at hd
      simp only [List.nil_append, Memory.wf, List.length_cons, List.length_nil, decide_eq_true_eq]
      omega
    | cons length rest =>
      simp only [List.cons_append, done_cons, List.length_append, List.length_cons, List.length_nil,
        decide_eq_false_iff_not] at hd
      simp only [Memory.wf, List.length_cons, decide_eq_true_eq] at h
      simp only [List.cons_append, Memory.wf, List.length_cons, List.length_append, List.length_nil, decide_eq_true_eq]
      omega
  · rfl

theorem Memory.reset_wf : Memory.wf State.reset.rxBuf = true := rfl

end Sys2Proof.Machine
end

