-- ==== Sys2Proof/Laws/Outputs.lean ====
section
/-! SUPPORT. What each record contributes to the views of the output trace, and runs of instructions over an append. -/

namespace Sys2Proof.Machine

/-! One record in the view of the frames written. -/

@[simp] theorem txWrites_nil : txWrites [] = [] := rfl
@[simp] theorem txWrites_txWrite (w : Frame) : txWrites [.txWrite w] = [w] := rfl
@[simp] theorem txWrites_record (d : Decoded) : txWrites [d.record] = [] := by cases d <;> rfl
@[simp] theorem txWrites_initDone (r : Status) : txWrites [.initDone r] = [] := rfl
@[simp] theorem txWrites_runReturned (r : Status) : txWrites [.runReturned r] = [] := rfl
@[simp] theorem txWrites_setSwitchDone (r : Status) : txWrites [.setSwitchDone r] = [] := rfl
@[simp] theorem txWrites_append (a b : List Output) : txWrites (a ++ b) = txWrites a ++ txWrites b := by
  simp [txWrites]

/-! One record in the view of the interface commands. -/

@[simp] theorem interfaceWrites_nil : interfaceWrites [] = [] := rfl
@[simp] theorem interfaceWrites_encIfcmd (q : Byte) (c : IfCommand) :
    interfaceWrites [.txWrite (encIfcmd q c)] = [encIfcmd q c] := rfl
@[simp] theorem interfaceWrites_encSwcmd (a : BitVec 32) (u : Byte) (on : Bool) (q : Byte) :
    interfaceWrites [.txWrite (encSwcmd a u on q)] = [] := rfl
@[simp] theorem interfaceWrites_record (d : Decoded) : interfaceWrites [d.record] = [] := by cases d <;> rfl
@[simp] theorem interfaceWrites_initDone (r : Status) : interfaceWrites [.initDone r] = [] := rfl
@[simp] theorem interfaceWrites_runReturned (r : Status) : interfaceWrites [.runReturned r] = [] := rfl
@[simp] theorem interfaceWrites_setSwitchDone (r : Status) : interfaceWrites [.setSwitchDone r] = [] := rfl
@[simp] theorem interfaceWrites_append (a b : List Output) :
    interfaceWrites (a ++ b) = interfaceWrites a ++ interfaceWrites b := by
  simp [interfaceWrites]

/-! One record in the count of `InitDone`. -/

@[simp] theorem initDoneCount_nil : initDoneCount [] = 0 := rfl
@[simp] theorem initDoneCount_txWrite (w : Frame) : initDoneCount [.txWrite w] = 0 := rfl
@[simp] theorem initDoneCount_record (d : Decoded) : initDoneCount [d.record] = 0 := by cases d <;> rfl
@[simp] theorem initDoneCount_initDone (r : Status) : initDoneCount [.initDone r] = 1 := rfl
@[simp] theorem initDoneCount_runReturned (r : Status) : initDoneCount [.runReturned r] = 0 := rfl
@[simp] theorem initDoneCount_setSwitchDone (r : Status) : initDoneCount [.setSwitchDone r] = 0 := rfl
@[simp] theorem initDoneCount_append (a b : List Output) :
    initDoneCount (a ++ b) = initDoneCount a + initDoneCount b := by
  simp [initDoneCount]

/-! One record in the view of the last revision. -/

@[simp] theorem lastRevision_nil : lastRevision [] = none := rfl
@[simp] theorem lastRevision_txWrite (w : Frame) : lastRevision [.txWrite w] = none := rfl
@[simp] theorem lastRevision_evStatus (v : Byte) : lastRevision [.evStatus v] = some v := rfl
@[simp] theorem lastRevision_initDone (r : Status) : lastRevision [.initDone r] = none := rfl
@[simp] theorem lastRevision_runReturned (r : Status) : lastRevision [.runReturned r] = none := rfl
@[simp] theorem lastRevision_setSwitchDone (r : Status) : lastRevision [.setSwitchDone r] = none := rfl
theorem lastRevision_append (a b : List Output) : lastRevision (a ++ b) = (lastRevision b).or (lastRevision a) := by
  simp [lastRevision, List.getLast?_append]

/-! Runs of instructions. -/

/-- A run over an append is the second run from where the first ends. -/
theorem execAll_append (is js : List Instr) (s : State) :
    execAll (is ++ js) s =
      match execAll is s with
      | .next t => execAll js t
      | .fault r => .fault r
      | .refused r => .refused r := by
  induction is generalizing s with
  | nil => rfl
  | cons i is ih =>
    simp only [List.cons_append, execAll]
    cases exec i s with
    | next t => exact ih t
    | fault r => rfl
    | refused r => rfl

end Sys2Proof.Machine
end

