-- ==== Sys2Proof/Laws/State.lean ====
section
/-! SUPPORT. One lemma per field for each named update of the state. -/

namespace Sys2Proof.Machine

/-! `State.emit` changes `out` only. -/

@[simp] theorem State.emit_rxBuf (s : State) (o : Output) : (s.emit o).rxBuf = s.rxBuf := rfl
@[simp] theorem State.emit_sess (s : State) (o : Output) : (s.emit o).sess = s.sess := rfl
@[simp] theorem State.emit_phase (s : State) (o : Output) : (s.emit o).phase = s.phase := rfl
@[simp] theorem State.emit_running (s : State) (o : Output) : (s.emit o).running = s.running := rfl
@[simp] theorem State.emit_ifSeq (s : State) (o : Output) : (s.emit o).ifSeq = s.ifSeq := rfl
@[simp] theorem State.emit_fwRev (s : State) (o : Output) : (s.emit o).fwRev = s.fwRev := rfl
@[simp] theorem State.emit_fwValid (s : State) (o : Output) : (s.emit o).fwValid = s.fwValid := rfl
@[simp] theorem State.emit_err (s : State) (o : Output) : (s.emit o).err = s.err := rfl
@[simp] theorem State.emit_errCode (s : State) (o : Output) : (s.emit o).errCode = s.errCode := rfl
@[simp] theorem State.emit_timer (s : State) (o : Output) : (s.emit o).timer = s.timer := rfl
@[simp] theorem State.emit_rdTimer (s : State) (o : Output) : (s.emit o).rdTimer = s.rdTimer := rfl
@[simp] theorem State.emit_txBuf (s : State) (o : Output) : (s.emit o).txBuf = s.txBuf := rfl
@[simp] theorem State.emit_txState (s : State) (o : Output) : (s.emit o).txState = s.txState := rfl
@[simp] theorem State.emit_txRep (s : State) (o : Output) : (s.emit o).txRep = s.txRep := rfl
@[simp] theorem State.emit_txTimer (s : State) (o : Output) : (s.emit o).txTimer = s.txTimer := rfl
@[simp] theorem State.emit_out (s : State) (o : Output) : (s.emit o).out = s.out ++ [o] := rfl
@[simp] theorem State.emit_reply (s : State) (o : Output) : (s.emit o).reply = s.reply := rfl
@[simp] theorem State.emit_offers (s : State) (o : Output) : (s.emit o).offers = s.offers := rfl

/-! `State.answer` changes `reply` only. -/

@[simp] theorem State.answer_rxBuf (s : State) (r : Reply) : (s.answer r).rxBuf = s.rxBuf := rfl
@[simp] theorem State.answer_sess (s : State) (r : Reply) : (s.answer r).sess = s.sess := rfl
@[simp] theorem State.answer_phase (s : State) (r : Reply) : (s.answer r).phase = s.phase := rfl
@[simp] theorem State.answer_running (s : State) (r : Reply) : (s.answer r).running = s.running := rfl
@[simp] theorem State.answer_ifSeq (s : State) (r : Reply) : (s.answer r).ifSeq = s.ifSeq := rfl
@[simp] theorem State.answer_fwRev (s : State) (r : Reply) : (s.answer r).fwRev = s.fwRev := rfl
@[simp] theorem State.answer_fwValid (s : State) (r : Reply) : (s.answer r).fwValid = s.fwValid := rfl
@[simp] theorem State.answer_err (s : State) (r : Reply) : (s.answer r).err = s.err := rfl
@[simp] theorem State.answer_errCode (s : State) (r : Reply) : (s.answer r).errCode = s.errCode := rfl
@[simp] theorem State.answer_timer (s : State) (r : Reply) : (s.answer r).timer = s.timer := rfl
@[simp] theorem State.answer_rdTimer (s : State) (r : Reply) : (s.answer r).rdTimer = s.rdTimer := rfl
@[simp] theorem State.answer_txBuf (s : State) (r : Reply) : (s.answer r).txBuf = s.txBuf := rfl
@[simp] theorem State.answer_txState (s : State) (r : Reply) : (s.answer r).txState = s.txState := rfl
@[simp] theorem State.answer_txRep (s : State) (r : Reply) : (s.answer r).txRep = s.txRep := rfl
@[simp] theorem State.answer_txTimer (s : State) (r : Reply) : (s.answer r).txTimer = s.txTimer := rfl
@[simp] theorem State.answer_out (s : State) (r : Reply) : (s.answer r).out = s.out := rfl
@[simp] theorem State.answer_reply (s : State) (r : Reply) : (s.answer r).reply = some r := rfl
@[simp] theorem State.answer_offers (s : State) (r : Reply) : (s.answer r).offers = s.offers := rfl

/-! `State.write` changes `out` only. -/

@[simp] theorem State.write_rxBuf (s : State) (w : Frame) : (s.write w).rxBuf = s.rxBuf := rfl
@[simp] theorem State.write_sess (s : State) (w : Frame) : (s.write w).sess = s.sess := rfl
@[simp] theorem State.write_phase (s : State) (w : Frame) : (s.write w).phase = s.phase := rfl
@[simp] theorem State.write_running (s : State) (w : Frame) : (s.write w).running = s.running := rfl
@[simp] theorem State.write_ifSeq (s : State) (w : Frame) : (s.write w).ifSeq = s.ifSeq := rfl
@[simp] theorem State.write_fwRev (s : State) (w : Frame) : (s.write w).fwRev = s.fwRev := rfl
@[simp] theorem State.write_fwValid (s : State) (w : Frame) : (s.write w).fwValid = s.fwValid := rfl
@[simp] theorem State.write_err (s : State) (w : Frame) : (s.write w).err = s.err := rfl
@[simp] theorem State.write_errCode (s : State) (w : Frame) : (s.write w).errCode = s.errCode := rfl
@[simp] theorem State.write_timer (s : State) (w : Frame) : (s.write w).timer = s.timer := rfl
@[simp] theorem State.write_rdTimer (s : State) (w : Frame) : (s.write w).rdTimer = s.rdTimer := rfl
@[simp] theorem State.write_txBuf (s : State) (w : Frame) : (s.write w).txBuf = s.txBuf := rfl
@[simp] theorem State.write_txState (s : State) (w : Frame) : (s.write w).txState = s.txState := rfl
@[simp] theorem State.write_txRep (s : State) (w : Frame) : (s.write w).txRep = s.txRep := rfl
@[simp] theorem State.write_txTimer (s : State) (w : Frame) : (s.write w).txTimer = s.txTimer := rfl
@[simp] theorem State.write_out (s : State) (w : Frame) : (s.write w).out = s.out ++ [.txWrite w] := rfl
@[simp] theorem State.write_reply (s : State) (w : Frame) : (s.write w).reply = s.reply := rfl
@[simp] theorem State.write_offers (s : State) (w : Frame) : (s.write w).offers = s.offers := rfl

/-! `State.emitIf` changes `out` only. -/

@[simp] theorem State.emitIf_rxBuf (s : State) (c : Bool) (o : Output) : (s.emitIf c o).rxBuf = s.rxBuf := by
  cases c <;> rfl
@[simp] theorem State.emitIf_sess (s : State) (c : Bool) (o : Output) : (s.emitIf c o).sess = s.sess := by
  cases c <;> rfl
@[simp] theorem State.emitIf_phase (s : State) (c : Bool) (o : Output) : (s.emitIf c o).phase = s.phase := by
  cases c <;> rfl
@[simp] theorem State.emitIf_running (s : State) (c : Bool) (o : Output) : (s.emitIf c o).running = s.running := by
  cases c <;> rfl
@[simp] theorem State.emitIf_ifSeq (s : State) (c : Bool) (o : Output) : (s.emitIf c o).ifSeq = s.ifSeq := by
  cases c <;> rfl
@[simp] theorem State.emitIf_fwRev (s : State) (c : Bool) (o : Output) : (s.emitIf c o).fwRev = s.fwRev := by
  cases c <;> rfl
@[simp] theorem State.emitIf_fwValid (s : State) (c : Bool) (o : Output) : (s.emitIf c o).fwValid = s.fwValid := by
  cases c <;> rfl
@[simp] theorem State.emitIf_err (s : State) (c : Bool) (o : Output) : (s.emitIf c o).err = s.err := by
  cases c <;> rfl
@[simp] theorem State.emitIf_errCode (s : State) (c : Bool) (o : Output) : (s.emitIf c o).errCode = s.errCode := by
  cases c <;> rfl
@[simp] theorem State.emitIf_timer (s : State) (c : Bool) (o : Output) : (s.emitIf c o).timer = s.timer := by
  cases c <;> rfl
@[simp] theorem State.emitIf_rdTimer (s : State) (c : Bool) (o : Output) : (s.emitIf c o).rdTimer = s.rdTimer := by
  cases c <;> rfl
@[simp] theorem State.emitIf_txBuf (s : State) (c : Bool) (o : Output) : (s.emitIf c o).txBuf = s.txBuf := by
  cases c <;> rfl
@[simp] theorem State.emitIf_txState (s : State) (c : Bool) (o : Output) : (s.emitIf c o).txState = s.txState := by
  cases c <;> rfl
@[simp] theorem State.emitIf_txRep (s : State) (c : Bool) (o : Output) : (s.emitIf c o).txRep = s.txRep := by
  cases c <;> rfl
@[simp] theorem State.emitIf_txTimer (s : State) (c : Bool) (o : Output) : (s.emitIf c o).txTimer = s.txTimer := by
  cases c <;> rfl
theorem State.emitIf_out (s : State) (c : Bool) (o : Output) :
    (s.emitIf c o).out = s.out ++ (if c then [o] else []) := by
  cases c <;> simp [State.emitIf]
@[simp] theorem State.emitIf_reply (s : State) (c : Bool) (o : Output) : (s.emitIf c o).reply = s.reply := by
  cases c <;> rfl
@[simp] theorem State.emitIf_offers (s : State) (c : Bool) (o : Output) : (s.emitIf c o).offers = s.offers := by
  cases c <;> rfl

end Sys2Proof.Machine
end

