-- ==== Sys2Proof/Laws/Ops.lean ====
section
/-! SUPPORT. One lemma per shared operation that says all it can do, for proofs to cite instead of unfolding it. -/

namespace Sys2Proof.Machine

/-- An event that is not enabled changes nothing (10_state.md R22). -/
theorem whenEnabled_off {i : Instr} {s : State} (h : enabled i s = false)
    (k : Host.Outcome State Fault Refusal) : whenEnabled i s k = .next s := by
  simp [whenEnabled, h]

/-- An event that is enabled has its step (10_state.md R22). -/
theorem whenEnabled_on {i : Instr} {s : State} (h : enabled i s = true)
    (k : Host.Outcome State Fault Refusal) : whenEnabled i s k = k := by
  simp [whenEnabled, h]

/-- ISSUE (44_session.md R174). -/
theorem issue_eq (c : IfCommand) (s : State) :
    issue c s = { s with ifSeq := nextSeq s.ifSeq, out := s.out ++ [.txWrite (encIfcmd (nextSeq s.ifSeq) c)] } := rfl

/-- SENDSTATUS (44_session.md R165). -/
theorem sendStatus_eq (s : State) :
    sendStatus s =
      { s with ifSeq := nextSeq s.ifSeq, out := s.out ++ [.txWrite (encIfcmd (nextSeq s.ifSeq) .status)],
               phase := .waitStatus, rdTimer := Config.tRead } := rfl

/-- COMPLETE (44_session.md R168). -/
theorem complete_eq (s : State) : complete s = { s with sess := .ready, out := s.out ++ [.initDone .ok] } := rfl

/-- The firmware record a result leaves (44_session.md R173). -/
theorem deliver_eq (r : Decoded) (s : State) :
    deliver r s =
      { s with out := s.out ++ [r.record],
               fwRev := (match r with
                 | .status v => v
                 | .temperature _ _ _ _ _ _ => s.fwRev
                 | .deviceState _ _ _ _ => s.fwRev
                 | .none _ => s.fwRev),
               fwValid := (match r with
                 | .status _ => true
                 | .temperature _ _ _ _ _ _ => s.fwValid
                 | .deviceState _ _ _ _ => s.fwValid
                 | .none _ => s.fwValid) } := by
  cases r <;> rfl

/-- The read time-out's restart (44_session.md R176). -/
theorem restartRead_eq (s : State) :
    restartRead s = { s with rdTimer := if s.sess = .initializing then Config.tRead else s.rdTimer } := by
  by_cases h : s.sess = .initializing <;> simp [restartRead, h]

/-- The three ends of a receive step that completes a frame (44_session.md R176). -/
theorem endWait_cases (s : State) :
    (s.sess = .initializing ∧ s.phase = .waitEnable ∧ endWait s = sendStatus s) ∨
      (s.sess = .initializing ∧ s.phase = .waitStatus ∧ endWait s = complete s) ∨
      ((s.sess ≠ .initializing ∨ s.phase = .settle) ∧ endWait s = s) := by
  cases hs : s.sess <;> cases hp : s.phase <;> simp [endWait, hs, hp]

/-- The receive step in the middle of a frame (44_session.md R176). -/
theorem rxByte_unfinished {b : Byte} {s : State} (h : done (s.rxBuf ++ [b]) = false) :
    rxByte b s = restartRead { s with rxBuf := s.rxBuf ++ [b] } := by
  simp [rxByte, accumulate_unfinished b s.rxBuf h]

/-- The receive step on a frame's last byte (44_session.md R176). -/
theorem rxByte_finished {b : Byte} {s : State} (h : done (s.rxBuf ++ [b]) = true) :
    rxByte b s = endWait (deliver (decodeFrame (s.rxBuf ++ [b])) (restartRead { s with rxBuf := [] })) := by
  simp [rxByte, accumulate_finished b s.rxBuf h]

/-- SETSWITCH's effect (43_retransmitter.md R141). -/
theorem startBurst_eq (frame : Frame) (s : State) :
    startBurst frame s =
      { s with txBuf := frame, out := s.out ++ [.txWrite frame], txRep := 2, txTimer := 150, txState := .delay } := rfl

/-- What TICK.TX can do (43_retransmitter.md R142). -/
theorem tickTx_cases (s : State) :
    (s.txState = .idle ∧ tickTx s = s) ∨
      (s.txState = .delay ∧ s.txTimer - 1 ≠ 0 ∧ tickTx s = { s with txTimer := s.txTimer - 1 }) ∨
      (s.txState = .delay ∧ s.txTimer - 1 = 0 ∧ 0 < s.txRep ∧
        tickTx s = { s with out := s.out ++ [.txWrite s.txBuf], txRep := s.txRep - 1, txTimer := 150 }) ∨
      (s.txState = .delay ∧ s.txTimer - 1 = 0 ∧ s.txRep = 0 ∧
        tickTx s = { s with txTimer := 0, txState := .idle, out := s.out ++ [.setSwitchDone .ok] }) := by
  cases hs : s.txState
  · simp [tickTx, hs]
  · by_cases ht : s.txTimer - 1 = 0
    · by_cases hr : 0 < s.txRep
      · simp [tickTx, hs, ht, hr, State.write, State.emit, Config.resendDelay]
      · simp [tickTx, hs, ht, State.emit]
        omega
    · simp [tickTx, hs, ht]

/-- TICK.TX leaves the session alone (60_exceptions.md R205). -/
theorem tickTx_session (s : State) :
    (tickTx s).sess = s.sess ∧ (tickTx s).phase = s.phase ∧ (tickTx s).timer = s.timer ∧
      (tickTx s).rdTimer = s.rdTimer ∧ (tickTx s).rxBuf = s.rxBuf ∧ (tickTx s).ifSeq = s.ifSeq := by
  rcases tickTx_cases s with ⟨-, h⟩ | ⟨-, -, h⟩ | ⟨-, -, -, h⟩ | ⟨-, -, -, h⟩ <;> simp [h]

/-- What the session lines of TICK can do (44_session.md R175). -/
theorem tickSession_cases (s : State) :
    (s.sess ≠ .initializing ∧ tickSession s = s) ∨
      (s.sess = .initializing ∧ s.phase = .settle ∧ s.timer - 1 ≠ 0 ∧
        tickSession s = { s with timer := s.timer - 1 }) ∨
      (s.sess = .initializing ∧ s.phase = .settle ∧ s.timer - 1 = 0 ∧
        tickSession s =
          { issue .enableAll { s with timer := 0 } with phase := .waitEnable, rdTimer := Config.tRead }) ∨
      (s.sess = .initializing ∧ s.phase ≠ .settle ∧ s.rdTimer - 1 ≠ 0 ∧
        tickSession s = { s with rdTimer := s.rdTimer - 1 }) ∨
      (s.sess = .initializing ∧ s.phase = .waitEnable ∧ s.rdTimer - 1 = 0 ∧
        tickSession s = sendStatus { s with rdTimer := 0 }) ∨
      (s.sess = .initializing ∧ s.phase = .waitStatus ∧ s.rdTimer - 1 = 0 ∧
        tickSession s = complete { s with rdTimer := 0 }) := by
  cases hs : s.sess
  · simp [tickSession, hs]
  · cases hp : s.phase
    · by_cases ht : s.timer - 1 = 0 <;> simp [tickSession, tickSettle, hs, hp, ht]
    · by_cases ht : s.rdTimer - 1 = 0 <;> simp [tickSession, tickWait, hs, hp, ht]
    · by_cases ht : s.rdTimer - 1 = 0 <;> simp [tickSession, tickWait, hs, hp, ht]
  · simp [tickSession, hs]
  · simp [tickSession, hs]

/-- The fault entry (60_exceptions.md R196). -/
theorem faultEntry_eq (s : State) :
    faultEntry s =
      { s with err := true, errCode := 1#8, running := false, txState := .idle, txRep := 0, sess := .stopped,
               out := s.out ++ (if s.sess == .initializing then [.initDone .err] else [])
                 ++ (if s.running then [.runReturned .err] else [])
                 ++ (if txBusy s then [.setSwitchDone .err] else []) } := by
  simp only [faultEntry, transportCode]
  cases s.sess == .initializing <;> cases s.running <;> cases txBusy s <;>
    simp [State.emitIf, State.emit]

/-- A word that is an instruction is ready exactly when the instruction is enabled (10_state.md R22). -/
theorem ready_of_decode {s : State} {w : OfferWord} {i : Instr} (h : decode w = .ok i) : ready w s = enabled i s := by
  simp [ready, h]

/-- A word that is not ready is an instruction that is not enabled (10_state.md R22). -/
theorem stalled_of_not_ready {s : State} {w : OfferWord} (h : ready w s = false) :
    ∃ i, decode w = .ok i ∧ enabled i s = false := by
  cases hd : decode w with
  | ok i => exact ⟨i, rfl, by rw [← ready_of_decode hd, h]⟩
  | error => simp [ready, hd] at h

/-- The word a list yields: the first ready one, those before it stalled and kept (10_state.md R22, R27). -/
theorem takeReady_some {s : State} {ws : List OfferWord} {w : OfferWord} {left : List OfferWord}
    (h : takeReady s ws = some (w, left)) :
    ∃ before after, ws = before ++ w :: after ∧ left = before ++ after ∧ ready w s = true ∧
      ∀ x ∈ before, ready x s = false := by
  induction ws generalizing left with
  | nil => simp [takeReady] at h
  | cons x rest ih =>
    by_cases hx : ready x s = true
    · simp only [takeReady, hx, if_true, Option.some.injEq, Prod.mk.injEq] at h
      obtain ⟨rfl, rfl⟩ := h
      exact ⟨[], _, rfl, rfl, hx, by simp⟩
    · simp only [takeReady, hx, Bool.false_eq_true, if_false, Option.map_eq_some_iff, Prod.mk.injEq] at h
      obtain ⟨⟨w', l'⟩, hr, rfl, rfl⟩ := h
      obtain ⟨before, after, rfl, rfl, hw, hb⟩ := ih hr
      refine ⟨x :: before, after, rfl, rfl, hw, ?_⟩
      intro y hy
      rcases List.mem_cons.mp hy with rfl | hy
      · simpa using hx
      · exact hb y hy

/-- A list that yields none holds no ready word (10_state.md R22). -/
theorem takeReady_none {s : State} {ws : List OfferWord} (h : takeReady s ws = none) :
    ∀ x ∈ ws, ready x s = false := by
  induction ws with
  | nil => simp
  | cons x rest ih =>
    by_cases hx : ready x s = true
    · simp [takeReady, hx] at h
    · simp only [takeReady, hx, Bool.false_eq_true, if_false, Option.map_eq_none_iff] at h
      intro y hy
      rcases List.mem_cons.mp hy with rfl | hy
      · simpa using hx
      · exact ih h y hy

/-- Words that are not ready are passed over (10_state.md R22). -/
theorem takeReady_stalled {s : State} {before after : List OfferWord} {w : OfferWord}
    (hb : ∀ x ∈ before, ready x s = false) (hw : ready w s = true) :
    takeReady s (before ++ w :: after) = some (w, before ++ after) := by
  induction before with
  | nil => simp [takeReady, hw]
  | cons x rest ih =>
    have hx := hb x (by simp)
    simp [takeReady, hx, ih (fun y hy => hb y (by simp [hy]))]

/-- When a byte has a step (10_state.md R22). -/
theorem enabled_feed_iff {b : Byte} {s : State} :
    enabled (.feed b) s = true ↔
      (s.sess = .initializing ∧ s.phase ≠ .settle) ∨ (s.sess = .ready ∧ s.running = true) := by
  simp only [enabled, reading]
  cases hs : s.sess <;> cases hp : s.phase <;> simp

/-- When the appended byte completes the frame, in terms of the first byte (40_accumulator.md R91). -/
theorem done_append {buf : Frame} {b length : Byte} (h : (buf ++ [b])[0]? = some length) :
    done (buf ++ [b]) = decide (buf.length + 1 = length.toNat + 1) := by
  cases buf with
  | nil =>
    simp at h
    subst h
    simp [done_cons, eq_comm]
  | cons x rest =>
    simp at h
    subst h
    simp [done_cons]

end Sys2Proof.Machine
end

