-- ==== Sys2Proof/Laws/Exec.lean ====
section
/-! SUPPORT. All that an instruction, and a step, can do to the state, said once. -/

namespace Sys2Proof.Machine

/-- The next state of an instruction, with the guard under which it is reached (10_state.md R20, R22). -/
theorem exec_next_cases {i : Instr} {s t : State} (h : exec i s = .next t) :
    t = s ∨
      (∃ r, t = { s with reply := some r }) ∨
      (∃ b, i = .feed b ∧ enabled (.feed b) s = true ∧ s.rxBuf.length < 256 ∧ t = rxByte b s) ∨
      (i = .init ∧ s.sess = .closed ∧
        t = { issue .reset { s with sess := .initializing } with phase := .settle, timer := Config.tSettle }) ∨
      (i = .run ∧ s.sess = .ready ∧ s.running = false ∧ t = { s with running := true }) ∨
      (i = .halt ∧ s.sess = .ready ∧
        t = { s with running := false, sess := .stopped,
                     out := s.out ++ (if s.running then [.runReturned .ok] else []) }) ∨
      (∃ a u q on, i = .setswitch a u q on ∧ s.sess = .ready ∧ s.txState = .idle ∧
        t = startBurst (encSwcmd a u on q) s) ∨
      (i = .tick ∧ countersLive s = true ∧ t = tickSession (tickTx s)) ∨
      (i = .transportFault ∧ (s.sess = .initializing ∨ s.sess = .ready) ∧ t = faultEntry s) ∨
      (i = .reset ∧ t = { State.reset with offers := s.offers }) := by
  cases i with
  | feed b =>
    by_cases he : enabled (.feed b) s = true
    · by_cases hl : s.rxBuf.length < 256
      · simp only [exec, execFeed, whenEnabled, he, Config.rxCap, hl, if_true, Host.Outcome.next.injEq] at h
        simp [he, hl, h]
      · simp [exec, execFeed, whenEnabled, he, Config.rxCap, hl] at h
    · simp [exec, execFeed, whenEnabled, he] at h
      simp [h]
  | init =>
    by_cases hs : s.sess = .closed
    · simp only [exec, execInit, whenEnabled, enabled, hs, beq_self_eq_true, if_true, Host.Outcome.next.injEq] at h
      simp [hs, ← h]
    · simp [exec, execInit, whenEnabled, enabled, hs] at h
      simp [h]
  | run =>
    by_cases hs : s.sess = .ready ∧ s.running = false
    · simp [exec, execRun, whenEnabled, enabled, hs] at h
      simp [hs, ← h]
    · have he : enabled .run s = false := by simpa [enabled] using fun a => by simpa using fun b => hs ⟨a, b⟩
      simp [exec, execRun, whenEnabled, he] at h
      simp [h]
  | halt =>
    by_cases hs : s.sess = .ready
    · simp only [exec, execHalt, whenEnabled, enabled, hs, beq_self_eq_true, if_true, Host.Outcome.next.injEq] at h
      cases hr : s.running <;> simp_all [State.emitIf, State.emit]
    · simp [exec, execHalt, whenEnabled, enabled, hs] at h
      simp [h]
  | setswitch a u q on =>
    by_cases hs : s.sess = .ready ∧ s.txState = .idle
    · simp [exec, execSetswitch, whenEnabled, enabled, hs] at h
      exact .inr (.inr (.inr (.inr (.inr (.inr (.inl ⟨a, u, q, on, rfl, hs.1, hs.2, h.symm⟩))))))
    · have he : enabled (.setswitch a u q on) s = false := by simpa [enabled] using fun x y => hs ⟨x, y⟩
      simp [exec, execSetswitch, whenEnabled, he] at h
      simp [h]
  | tick =>
    by_cases hc : countersLive s = true
    · simp [exec, execTick, hc] at h
      simp [hc, ← h]
    · simp [exec, execTick, hc] at h
  | transportFault =>
    by_cases hp : portOpen s = true
    · simp only [exec, execTransportFault, hp, if_true, Host.Outcome.next.injEq] at h
      have : s.sess = .initializing ∨ s.sess = .ready := by simpa [portOpen] using hp
      simp [this, h]
    · simp [exec, execTransportFault, hp] at h
      simp [h]
  | reset =>
    simp [exec, execReset] at h
    simp [← h]
  | decIfrespStatus f => exact .inr (.inl ⟨_, (Host.Outcome.next.inj h).symm⟩)
  | decIfrespOther f => exact .inr (.inl ⟨_, (Host.Outcome.next.inj h).symm⟩)
  | decTempLacrosse f => exact .inr (.inl ⟨_, (Host.Outcome.next.inj h).symm⟩)
  | decTempViking f => exact .inr (.inl ⟨_, (Host.Outcome.next.inj h).symm⟩)
  | decLightingAc f => exact .inr (.inl ⟨_, (Host.Outcome.next.inj h).symm⟩)
  | decRawLacrosse f => exact .inr (.inl ⟨_, (Host.Outcome.next.inj h).symm⟩)
  | decUnknown f => exact .inr (.inl ⟨_, (Host.Outcome.next.inj h).symm⟩)
  | decShort f need => exact .inr (.inl ⟨_, (Host.Outcome.next.inj h).symm⟩)
  | encIfcmdReset q => exact .inr (.inl ⟨_, (Host.Outcome.next.inj h).symm⟩)
  | encIfcmdStatus q => exact .inr (.inl ⟨_, (Host.Outcome.next.inj h).symm⟩)
  | encIfcmdEnableAll q => exact .inr (.inl ⟨_, (Host.Outcome.next.inj h).symm⟩)
  | encIfcmdEnableUndecoded q => exact .inr (.inl ⟨_, (Host.Outcome.next.inj h).symm⟩)
  | encSwcmd a u on q => exact .inr (.inl ⟨_, (Host.Outcome.next.inj h).symm⟩)

/-- What the receive step leaves alone, and where it can take the session (44_session.md R163, R166, R176). -/
theorem rxByte_frame (b : Byte) (s : State) :
    (rxByte b s).txBuf = s.txBuf ∧ (rxByte b s).txState = s.txState ∧ (rxByte b s).txRep = s.txRep ∧
      (rxByte b s).txTimer = s.txTimer ∧ (rxByte b s).err = s.err ∧ (rxByte b s).errCode = s.errCode ∧
      (rxByte b s).running = s.running ∧ (rxByte b s).offers = s.offers ∧ (rxByte b s).reply = s.reply ∧
      (rxByte b s).timer = s.timer ∧ s.out <+: (rxByte b s).out ∧
      (((rxByte b s).sess = s.sess ∧ (rxByte b s).phase = s.phase) ∨
        (s.sess = .initializing ∧ s.phase = .waitStatus ∧ (rxByte b s).sess = .ready ∧
          (rxByte b s).phase = s.phase) ∨
        (s.sess = .initializing ∧ s.phase = .waitEnable ∧ (rxByte b s).sess = s.sess ∧
          (rxByte b s).phase = .waitStatus)) := by
  cases h : done (s.rxBuf ++ [b])
  · simp [rxByte_unfinished h, restartRead_eq]
  · simp only [rxByte_finished h, deliver_eq, restartRead_eq]
    cases hs : s.sess <;> cases hp : s.phase <;> simp [endWait, sendStatus_eq, complete_eq]

/-- What TICK.TX leaves alone (43_retransmitter.md R142, 60_exceptions.md R205). -/
theorem tickTx_frame (s : State) :
    (tickTx s).sess = s.sess ∧ (tickTx s).phase = s.phase ∧ (tickTx s).timer = s.timer ∧
      (tickTx s).rdTimer = s.rdTimer ∧ (tickTx s).ifSeq = s.ifSeq ∧ (tickTx s).err = s.err ∧
      (tickTx s).errCode = s.errCode ∧ (tickTx s).running = s.running ∧ (tickTx s).offers = s.offers ∧
      (tickTx s).reply = s.reply ∧ (tickTx s).rxBuf = s.rxBuf ∧ (tickTx s).fwRev = s.fwRev ∧
      (tickTx s).fwValid = s.fwValid ∧ (tickTx s).txBuf = s.txBuf ∧ s.out <+: (tickTx s).out := by
  rcases tickTx_cases s with ⟨-, h⟩ | ⟨-, -, h⟩ | ⟨-, -, -, h⟩ | ⟨-, -, -, h⟩ <;> simp [h]

/-- What the session lines of TICK leave alone, and where they can take the session (44_session.md R175). -/
theorem tickSession_frame (s : State) :
    (tickSession s).txBuf = s.txBuf ∧ (tickSession s).txState = s.txState ∧ (tickSession s).txRep = s.txRep ∧
      (tickSession s).txTimer = s.txTimer ∧ (tickSession s).err = s.err ∧ (tickSession s).errCode = s.errCode ∧
      (tickSession s).running = s.running ∧ (tickSession s).offers = s.offers ∧
      (tickSession s).reply = s.reply ∧ (tickSession s).rxBuf = s.rxBuf ∧ (tickSession s).fwRev = s.fwRev ∧
      (tickSession s).fwValid = s.fwValid ∧ s.out <+: (tickSession s).out ∧
      (((tickSession s).sess = s.sess ∧ (tickSession s).phase = s.phase) ∨
        (s.sess = .initializing ∧ s.phase = .waitStatus ∧ (tickSession s).sess = .ready ∧
          (tickSession s).phase = s.phase) ∨
        (s.sess = .initializing ∧ s.phase = .waitEnable ∧ (tickSession s).sess = s.sess ∧
          (tickSession s).phase = .waitStatus) ∨
        (s.sess = .initializing ∧ s.phase = .settle ∧ (tickSession s).sess = s.sess ∧
          (tickSession s).phase = .waitEnable)) := by
  rcases tickSession_cases s with ⟨-, h⟩ | ⟨hs, hp, -, h⟩ | ⟨hs, hp, -, h⟩ | ⟨hs, hp, -, h⟩ | ⟨hs, hp, -, h⟩ |
    ⟨hs, hp, -, h⟩ <;> simp [issue_eq, sendStatus_eq, complete_eq, *]

/-- The next state of a step: nothing was ready, or the first ready word's instruction gave it (log 1). -/
theorem step_next_cases {s t : State} (h : step s = .next t) :
    (t = s ∧ ∀ x ∈ s.offers, ready x s = false) ∨
      ∃ before word after i, s.offers = before ++ word :: after ∧ (∀ x ∈ before, ready x s = false) ∧
        ready word s = true ∧ decode word = .ok i ∧ exec i { s with offers := before ++ after } = .next t := by
  simp only [step, fetch] at h
  cases hh : takeReady s s.offers with
  | none =>
    simp [hh] at h
    exact .inl ⟨h.symm, takeReady_none hh⟩
  | some p =>
    obtain ⟨word, left⟩ := p
    simp only [hh, Option.map_some] at h
    obtain ⟨before, after, e1, e2, e3, e4⟩ := takeReady_some hh
    cases hd : decode word with
    | error => simp [hd] at h
    | ok i =>
      rw [hd] at h
      subst e2
      exact .inr ⟨before, word, after, i, e1, e4, e3, hd, h⟩

end Sys2Proof.Machine
end

