-- ==== Sys2Proof/Tests/Slice0.lean ====
section
/-! SUPPORT. The model's own tests. Every expected value is the spec's: the vectors of 95_test_vectors.md are named by their
ids. The last part shows, for each statement with hypotheses, values that meet them all. -/

namespace Sys2Proof.Tests

open Sys2Proof Sys2Proof.Machine

/-- The next state, if there is one. -/
def next? (o : Host.Outcome State Fault Refusal) : Option State :=
  match o with
  | .next t => some t
  | .fault _ => none
  | .refused _ => none

/-- The state after some instructions. -/
def after (is : List Instr) (s : State) : Option State := next? (execAll is s)

/-- The records after some instructions. -/
def outOf (is : List Instr) (s : State) : Option (List Output) := (after is s).map State.out

/-- What a direct component call returns. -/
def replyOf (i : Instr) : Option Reply := ((next? (exec i State.reset)).bind State.reply)

/-- The decoded row of a word. -/
def rowOf (w : OfferWord) : Option Instr :=
  match decode w with
  | .ok i => some i
  | .error _ => none

/-- `Ready` with the loop running, after a handshake nobody answered. -/
def ready : State := { State.reset with sess := .ready, running := true, ifSeq := 3#8 }

/-- `WaitEnable` with one tick left. -/
def waitEnable : State := { State.reset with sess := .initializing, phase := .waitEnable, ifSeq := 2#8, rdTimer := 1 }

/-- `WaitStatus` with one tick left. -/
def waitStatus : State := { State.reset with sess := .initializing, phase := .waitStatus, ifSeq := 3#8, rdTimer := 1 }

/-- `Settle` with one tick left. -/
def settle : State := { State.reset with sess := .initializing, phase := .settle, ifSeq := 1#8, timer := 1 }

/-- `Ready` with a burst whose delay ends at the next tick. -/
def burst (rep : Nat) : State :=
  { ready with txState := .delay, txRep := rep, txTimer := 1, txBuf := encSwcmd 0x01020304#32 5#8 true 7#8 }

/-- VD1. -/
def statusFrame : Frame := [0x06#8, 0x01#8, 0x00#8, 0x03#8, 0x02#8, 0x53#8, 0x2A#8]
/-- VD4. -/
def enableFrame : Frame := [0x04#8, 0x01#8, 0x00#8, 0x02#8, 0x04#8]
/-- VD10. -/
def lacrosseFrame : Frame :=
  [0x0C#8, 0x50#8, 0x05#8, 0x01#8, 0x12#8, 0x34#8, 0x00#8, 0x96#8, 0x79#8, 0#8, 0#8, 0#8, 0#8]
/-- VD12. -/
def vikingFrame : Frame := [0x08#8, 0x50#8, 0x07#8, 0x2A#8, 0xAB#8, 0xCD#8, 0x80#8, 0x19#8, 0x30#8]
/-- VD21. -/
def lightingFrame : Frame :=
  [0x0B#8, 0x11#8, 0x00#8, 0x09#8, 0x00#8, 0xA1#8, 0xB2#8, 0xC3#8, 0x0A#8, 0x01#8, 0x0F#8, 0x60#8]
/-- VD28. -/
def rawFrame : Frame := [0x05#8, 0x03#8, 0x04#8, 0xDE#8, 0xAD#8, 0x01#8]
/-- VD31. -/
def unknownFrame : Frame := [0x03#8, 0xFF#8, 0x00#8, 0x00#8]
/-- VD17. -/
def shortFrame : Frame := [0x07#8, 0x50#8, 0x05#8, 0x01#8, 0x12#8, 0x34#8, 0x00#8, 0x96#8]
/-- VE5. -/
def switchFrame : Frame :=
  [0x0C#8, 0x11#8, 0x00#8, 0x07#8, 0x01#8, 0x02#8, 0x03#8, 0x04#8, 0x05#8, 0x01#8, 0x00#8, 0x00#8, 0x00#8]

/-- All of the longest frame but its last two bytes (VA7). -/
def longest : Frame := 255#8 :: List.replicate 253 7#8

/-! WellFormed refuses an ill-formed term by each of its checks. -/

theorem test_wf_size_empty : (Instr.decShort [] 3).wellFormed = false := by decide
theorem test_wf_size_long : (Instr.decRawLacrosse (0#8 :: 0x03#8 :: 0x04#8 :: List.replicate 254 0#8)).wellFormed = false := by
  simp [-List.reduceReplicate, Instr.wellFormed, Frame.sized]
theorem test_wf_status_key : (Instr.decIfrespStatus vikingFrame).wellFormed = false := by decide
theorem test_wf_status_command : (Instr.decIfrespStatus [6#8, 1#8, 0#8, 3#8, 4#8, 0#8, 0#8]).wellFormed = false := by decide
theorem test_wf_status_length : (Instr.decIfrespStatus (statusFrame.take 6)).wellFormed = false := by decide
theorem test_wf_other_key : (Instr.decIfrespOther rawFrame).wellFormed = false := by decide
theorem test_wf_other_command : (Instr.decIfrespOther statusFrame).wellFormed = false := by decide
theorem test_wf_other_length : (Instr.decIfrespOther (enableFrame.take 4)).wellFormed = false := by decide
theorem test_wf_lacrosse_key : (Instr.decTempLacrosse vikingFrame).wellFormed = false := by decide
theorem test_wf_lacrosse_length : (Instr.decTempLacrosse shortFrame).wellFormed = false := by decide
theorem test_wf_viking_key : (Instr.decTempViking lacrosseFrame).wellFormed = false := by decide
theorem test_wf_viking_length : (Instr.decTempViking (vikingFrame.take 8)).wellFormed = false := by decide
theorem test_wf_lighting_key : (Instr.decLightingAc (lightingFrame.set 2 1#8)).wellFormed = false := by decide
theorem test_wf_lighting_length : (Instr.decLightingAc (lightingFrame.take 11)).wellFormed = false := by decide
theorem test_wf_raw_key : (Instr.decRawLacrosse unknownFrame).wellFormed = false := by decide
theorem test_wf_unknown_length : (Instr.decUnknown [0x01#8, 0xFF#8]).wellFormed = false := by decide
theorem test_wf_unknown_recognised : (Instr.decUnknown vikingFrame).wellFormed = false := by decide
theorem test_wf_short_need : (Instr.decShort shortFrame 12).wellFormed = false := by decide
theorem test_wf_short_enough : (Instr.decShort vikingFrame 9).wellFormed = false := by decide

/-! Decoding of words written out from the spec's encodings, one for each constructor (R60, R66, R67, R75, R78). -/

theorem test_decode_feed : rowOf (.rxByte 0x5A#8) = some (.feed 0x5A#8) := by decide
theorem test_decode_status : rowOf (.frame statusFrame) = some (.decIfrespStatus statusFrame) := by decide
theorem test_decode_other : rowOf (.frame enableFrame) = some (.decIfrespOther enableFrame) := by decide
theorem test_decode_lacrosse : rowOf (.frame lacrosseFrame) = some (.decTempLacrosse lacrosseFrame) := by decide
theorem test_decode_viking : rowOf (.frame vikingFrame) = some (.decTempViking vikingFrame) := by decide
theorem test_decode_lighting : rowOf (.frame lightingFrame) = some (.decLightingAc lightingFrame) := by decide
theorem test_decode_raw : rowOf (.frame rawFrame) = some (.decRawLacrosse rawFrame) := by decide
theorem test_decode_unknown : rowOf (.frame unknownFrame) = some (.decUnknown unknownFrame) := by decide
theorem test_decode_short : rowOf (.frame shortFrame) = some (.decShort shortFrame 9) := by decide
/-- VD6, VD8. -/
theorem test_decode_short_ifresp :
    rowOf (.frame [4#8, 1#8, 0#8, 3#8, 2#8]) = some (.decShort [4#8, 1#8, 0#8, 3#8, 2#8] 7) ∧
      rowOf (.frame [3#8, 1#8, 0#8, 2#8]) = some (.decShort [3#8, 1#8, 0#8, 2#8] 5) := by decide
/-- VE1 to VE4. -/
theorem test_decode_ifcmd :
    rowOf (.outbound [4#8, 0#8, 0#8, 1#8, 0#8]) = some (.encIfcmdReset 1#8) ∧
    rowOf (.outbound [4#8, 0#8, 0#8, 2#8, 4#8]) = some (.encIfcmdEnableAll 2#8) ∧
    rowOf (.outbound [4#8, 0#8, 0#8, 3#8, 2#8]) = some (.encIfcmdStatus 3#8) ∧
    rowOf (.outbound [4#8, 0#8, 0#8, 0xFF#8, 5#8]) = some (.encIfcmdEnableUndecoded 0xFF#8) := by decide
theorem test_decode_swcmd : rowOf (.outbound switchFrame) = some (.encSwcmd 0x01020304#32 5#8 true 7#8) := by decide
theorem test_decode_host :
    rowOf (.hostOp 0#2 0#32 0#8 0#8 false) = some .init ∧ rowOf (.hostOp 1#2 0#32 0#8 0#8 false) = some .run ∧
    rowOf (.hostOp 2#2 0#32 0#8 0#8 false) = some .halt ∧
    rowOf (.hostOp 3#2 0x00A1B2C3#32 0x0A#8 0xC8#8 false) = some (.setswitch 0x00A1B2C3#32 0x0A#8 0xC8#8 false) := by decide
theorem test_decode_strobes :
    rowOf .tick = some .tick ∧ rowOf .transportFault = some .transportFault ∧ rowOf .reset = some .reset := by decide
theorem test_decode_refuses :
    rowOf (.frame []) = none ∧ rowOf (.outbound [4#8, 0#8, 0#8, 1#8, 3#8]) = none ∧
    rowOf (.outbound [4#8, 0x11#8, 0#8, 1#8, 0#8]) = none ∧ rowOf (.outbound (switchFrame.set 9 2#8)) = none := by decide

/-- The table's match columns, as numbers. -/
theorem test_table_words :
    decodeTableWord 24 0x010002 = some (.decIfrespStatus (keyFrame 0x010002)) ∧
    decodeTableWord 24 0x110000 = some (.decLightingAc (keyFrame 0x110000)) ∧
    decodeTableWord 40 0x0400000005 = some (.encIfcmdEnableUndecoded 0#8) ∧
    decodeTableWord 104 0x0C110000000000000000000000 = some (.encSwcmd 0#32 0#8 false 0#8) ∧
    decodeTableWord 8 3 = some (.setswitch 0#32 0#8 0#8 false) := by decide
theorem test_fetch_word : (next? (step (State.reset.withFetchWord 8 0))).map State.sess = some .initializing := by decide

/-! The decoder's rows (VD vectors). -/

theorem test_status_value : replyOf (.decIfrespStatus statusFrame) = some (.decoded (.status 0x2A#8)) := by decide
theorem test_other_value : replyOf (.decIfrespOther enableFrame) = some (.decoded (.none (.ifrespOther 4#8))) := by decide
theorem test_lacrosse_value : replyOf (.decTempLacrosse lacrosseFrame) =
    some (.decoded (.temperature 0x1234#16 1#8 false 150#15 7#8 false)) := by decide
/-- VD15. -/
theorem test_lacrosse_extreme :
    replyOf (.decTempLacrosse [8#8, 0x50#8, 5#8, 0xFF#8, 0xFF#8, 0xFF#8, 0xFF#8, 0xFF#8, 0x0F#8]) =
      some (.decoded (.temperature 0xFFFF#16 255#8 true 32767#15 0#8 false)) := by decide
theorem test_viking_value : replyOf (.decTempViking vikingFrame) =
    some (.decoded (.temperature 0xABCD#16 42#8 true 25#15 3#8 true)) := by decide
theorem test_lighting_value : replyOf (.decLightingAc lightingFrame) =
    some (.decoded (.deviceState 0x00A1B2C3#32 10#8 true 6#8)) := by decide
/-- VD22. -/
theorem test_lighting_off : replyOf (.decLightingAc (lightingFrame.set 9 0#8)) =
    some (.decoded (.deviceState 0x00A1B2C3#32 10#8 false 6#8)) := by decide
theorem test_raw_value : replyOf (.decRawLacrosse rawFrame) = some (.decoded (.none (.raw rawFrame))) := by decide
theorem test_unknown_value : replyOf (.decUnknown unknownFrame) =
    some (.decoded (.none (.unknown 0xFF#8 0x00#8))) := by decide
theorem test_short_value : replyOf (.decShort shortFrame 9) = some (.decoded (.none (.short 8 9))) := by decide
/-- VD19. -/
theorem test_decode_viking_subtype : decodeFrame (vikingFrame.set 2 6#8) = .none (.unknown 0x50#8 0x06#8) := by decide

/-- The binary64 views +15.0, -0.0, -2.5 of VD10, VD13, VD12. -/
theorem test_binary64 :
    temperatureBinary64 false 150#15 = 0x402E000000000000#64 ∧
    temperatureBinary64 true 0#15 = 0x8000000000000000#64 ∧
    temperatureBinary64 true 25#15 = 0xC004000000000000#64 := by decide

/-! The encoder's rows (VE vectors). -/

theorem test_enc_reset : replyOf (.encIfcmdReset 1#8) = some (.frame [4#8, 0#8, 0#8, 1#8, 0#8]) := by decide
theorem test_enc_status : replyOf (.encIfcmdStatus 3#8) = some (.frame [4#8, 0#8, 0#8, 3#8, 2#8]) := by decide
theorem test_enc_enable : replyOf (.encIfcmdEnableAll 2#8) = some (.frame [4#8, 0#8, 0#8, 2#8, 4#8]) := by decide
theorem test_enc_undecoded : replyOf (.encIfcmdEnableUndecoded 0xFF#8) =
    some (.frame [4#8, 0#8, 0#8, 0xFF#8, 5#8]) := by decide
theorem test_enc_swcmd : replyOf (.encSwcmd 0x01020304#32 5#8 true 7#8) = some (.frame switchFrame) := by decide
/-- VE8. -/
theorem test_enc_swcmd_off : replyOf (.encSwcmd 0xAABBCCDD#32 16#8 false 0#8) =
    some (.frame [0x0C#8, 0x11#8, 0#8, 0#8, 0xAA#8, 0xBB#8, 0xCC#8, 0xDD#8, 0x10#8, 0#8, 0#8, 0#8, 0#8]) := by decide
theorem test_next_seq : nextSeq 0#8 = 1#8 ∧ nextSeq 254#8 = 255#8 ∧ nextSeq 255#8 = 1#8 := by decide

/-! The accumulator and the session (VA, VS vectors). -/

/-- VA5: back-to-back frames, the trailing byte kept. -/
theorem test_feed_back_to_back :
    (after [.feed 0#8, .feed 0#8, .feed 1#8, .feed 9#8, .feed 2#8] ready).map (fun t => (t.rxBuf, t.out.length)) =
      some ([2#8], 3) := by decide
/-- VS11. -/
theorem test_feed_ends_wait : outOf [.feed 0x2A#8] { waitEnable with rxBuf := statusFrame.take 6 } =
    some [.evStatus 0x2A#8, .txWrite [4#8, 0#8, 0#8, 3#8, 2#8]] := by decide
/-- VS1. -/
theorem test_init : (after [.init] State.reset).map (fun t => (t.sess, t.ifSeq, t.out)) =
    some (.initializing, 1#8, [.txWrite [4#8, 0#8, 0#8, 1#8, 0#8]]) := by decide
/-- VS15, VS22. -/
theorem test_run : (after [.run] { ready with running := false }).map State.running = some true ∧
    (after [.run] State.reset).map State.running = some false := by decide
/-- VS19, VS20. -/
theorem test_halt : (after [.halt] ready).map (fun t => (t.sess, t.running, t.out)) =
      some (.stopped, false, [.runReturned .ok]) ∧
    outOf [.halt] { ready with running := false } = some [] := by decide
/-- VT1. -/
theorem test_setswitch : (after [.setswitch 0x01020304#32 5#8 7#8 true] ready).map
    (fun t => (t.out, t.txState, t.txRep, t.txTimer)) = some ([.txWrite switchFrame], .delay, 2, 150) := by decide
/-- VT7. -/
theorem test_setswitch_busy : outOf [.setswitch 1#32 1#8 1#8 false] (burst 2) = some [] := by decide
/-- VT3, VT6. -/
theorem test_tick_burst :
    (after [.tick] (burst 2)).map (fun t => (t.out, t.txRep, t.txTimer)) = some ([.txWrite switchFrame], 1, 150) ∧
    (after [.tick] (burst 0)).map (fun t => (t.out, t.txState)) = some ([.setSwitchDone .ok], .idle) := by decide
/-- VS4, VS5, VS6. -/
theorem test_tick_handshake :
    outOf [.tick] settle = some [.txWrite [4#8, 0#8, 0#8, 2#8, 4#8]] ∧
    outOf [.tick] waitEnable = some [.txWrite [4#8, 0#8, 0#8, 3#8, 2#8]] ∧
    outOf [.tick] waitStatus = some [.initDone .ok] := by decide
/-- VF6, VF2. -/
theorem test_fault :
    (after [.transportFault] (burst 1)).map (fun t => (t.out, t.sess, t.err, t.errCode)) =
      some ([.runReturned .err, .setSwitchDone .err], .stopped, true, 1#8) ∧
    outOf [.transportFault] settle = some [.initDone .err] := by decide
/-- VF9. -/
theorem test_reset : after [.reset] (burst 1) = some State.reset := by decide

/-! A witness for the hypotheses of each statement. -/

theorem test_witness_encode :
    (Instr.decShort [0#8] 3).wellFormed = true ∧ (Instr.decRawLacrosse rawFrame).wellFormed = true ∧
      (Instr.encSwcmd 0xFFFFFFFF#32 255#8 false 255#8).wellFormed = true := by decide
theorem test_witness_decoded : rowOf (.frame unknownFrame) = some (.decUnknown unknownFrame) ∧
    ∀ op a u q on, OfferWord.frame unknownFrame ≠ .hostOp op a u q on := by simp [test_decode_unknown]
theorem test_witness_key : 1 ≤ ([0#8] : Frame).length ∧ (List.replicate 256 0#8 : Frame).length ≤ 256 := by simp [-List.reduceReplicate]
theorem test_witness_undefined_command : (3#8 : Byte) ≠ 0#8 ∧ (3#8 : Byte) ≠ 2#8 ∧ (3#8 : Byte) ≠ 4#8 ∧ (3#8 : Byte) ≠ 5#8 ∧
    ({ ready with offers := [.outbound [4#8, 0#8, 0#8, 1#8, 3#8]] } : State).offers =
      [.outbound [4#8, 0#8, 0#8, 1#8, 3#8]] := by decide
theorem test_witness_step : ({ ready with offers := [.hostOp 1#2 0#32 0#8 0#8 false, .tick] } : State).offers =
      [.hostOp 1#2 0#32 0#8 0#8 false] ++ .tick :: [] ∧
    (∀ x ∈ [OfferWord.hostOp 1#2 0#32 0#8 0#8 false], ∃ j, decode x = .ok j ∧ enabled j ready = false) ∧
    decode .tick = .ok .tick ∧ enabled .tick ready = true := by
  refine ⟨rfl, ?_, rfl, rfl⟩
  intro x hx
  obtain rfl := List.mem_singleton.mp hx
  exact ⟨.run, rfl, rfl⟩
theorem test_witness_idle :
    ∀ x ∈ ({ State.reset with offers := [.rxByte 1#8] } : State).offers,
      ∃ j, decode x = .ok j ∧ enabled j { State.reset with offers := [.rxByte 1#8] } = false := by
  intro x hx
  obtain rfl := List.mem_singleton.mp hx
  exact ⟨.feed 1#8, rfl, rfl⟩
/-- A step that takes the second offer; a step that feeds a byte. -/
theorem test_witness_step_next :
    (next? (step { ready with offers := [.hostOp 1#2 0#32 0#8 0#8 false, .rxByte 2#8] })).map
        (fun t => (t.offers, t.rxBuf)) =
      some ([.hostOp 1#2 0#32 0#8 0#8 false], [2#8]) := by decide
/-- A received byte that has no step stays offered while a tick behind it is taken. -/
theorem test_witness_byte_stalled :
    (next? (step { settle with timer := 2, offers := [.rxByte 1#8, .tick] })).map
        (fun t => (receivedBytes t.offers, t.rxBuf, t.timer)) = some ([1#8], [], 1) := by decide
theorem test_witness_feed_off : State.reset.sess = .closed ∧ (settle.sess = .initializing ∧ settle.phase = .settle) ∧
    (let s : State := { ready with running := false }; s.sess = .ready ∧ s.running = false) ∧
    ({ ready with sess := .stopped } : State).sess = .stopped := by decide
/-- The first byte of a frame, and the 255th of the longest. -/
theorem test_witness_feed_appends :
    (ready.sess = .ready ∧ ready.running = true) ∧ ready.rxBuf.length < 256 ∧
      (ready.rxBuf ++ [1#8])[0]? = some 1#8 ∧ ready.rxBuf.length + 1 ≠ (1#8 : Byte).toNat + 1 ∧
    (waitEnable.sess = .initializing ∧ waitEnable.phase ≠ .settle) ∧ longest.length < 256 ∧
      (longest ++ [7#8])[0]? = some 255#8 ∧ longest.length + 1 ≠ (255#8 : Byte).toNat + 1 := by
  simp [-List.reduceReplicate, ready, waitEnable, State.reset, longest]
/-- The one-byte frame, the longest frame, and one frame for each kind of result. -/
theorem test_witness_feed_completes :
    ready.rxBuf.length < 256 ∧ (ready.rxBuf ++ [0#8])[0]? = some 0#8 ∧
      ready.rxBuf.length + 1 = (0#8 : Byte).toNat + 1 ∧ decodeFrame ([] ++ [0#8]) = .none (.short 1 3) ∧
    (statusFrame.take 6).length + 1 = (6#8 : Byte).toNat + 1 ∧
      decodeFrame (statusFrame.take 6 ++ [0x2A#8]) = .status 0x2A#8 ∧
    (vikingFrame.take 8).length + 1 = (8#8 : Byte).toNat + 1 ∧
      decodeFrame (vikingFrame.take 8 ++ [0x30#8]) = .temperature 0xABCD#16 42#8 true 25#15 3#8 true ∧
    (lightingFrame.take 11).length + 1 = (11#8 : Byte).toNat + 1 ∧
      decodeFrame (lightingFrame.take 11 ++ [0x60#8]) = .deviceState 0x00A1B2C3#32 10#8 true 6#8 := by decide
theorem test_witness_feed_longest : (longest ++ [7#8]).length < 256 ∧ ((longest ++ [7#8]) ++ [7#8])[0]? = some 255#8 ∧
    (longest ++ [7#8]).length + 1 = (255#8 : Byte).toNat + 1 := by simp [-List.reduceReplicate, longest]
theorem test_witness_waits : (waitEnable.sess = .initializing ∧ waitEnable.phase = .waitEnable) ∧
    waitEnable.rxBuf.length + 1 = (0#8 : Byte).toNat + 1 ∧ (waitEnable.rxBuf ++ [0#8])[0]? = some 0#8 ∧
    (waitStatus.sess = .initializing ∧ waitStatus.phase = .waitStatus) ∧
    waitStatus.rxBuf.length + 1 = (0#8 : Byte).toNat + 1 ∧ (waitStatus.rxBuf ++ [0#8])[0]? = some 0#8 := by decide
/-- The only instructions that change the record of the revision. -/
theorem test_witness_revision :
    (after [.feed 0x2A#8] { ready with rxBuf := statusFrame.take 6 }).map (fun t => (t.fwRev, t.fwValid)) =
      some (0x2A#8, true) := by decide
theorem test_witness_stream : ready.sess = .ready ∧ ready.running = true ∧ ready.rxBuf = [] ∧
    ([] : List Byte).length < (1#8 : Byte).toNat ∧ ([] : List Byte).length = (0#8 : Byte).toNat ∧
    (List.replicate 255 7#8 : List Byte).length = (255#8 : Byte).toNat := by simp [-List.reduceReplicate, ready, State.reset]
theorem test_witness_feed_stops : 256 ≤ ({ ready with rxBuf := List.replicate 256 0#8 } : State).rxBuf.length := by simp [-List.reduceReplicate]
theorem test_witness_status_row : 7 ≤ statusFrame.length ∧ statusFrame[6]? = some 0x2A#8 ∧
    (statusFrame.take 6).length < 7 ∧ statusFrame.length ≤ 256 ∧ statusFrame[1]? = some 1#8 ∧
    statusFrame[2]? = some 0#8 ∧ statusFrame[4]? = some 2#8 := by decide
theorem test_witness_other_row : 5 ≤ enableFrame.length ∧ enableFrame[4]? = some 4#8 ∧ (4#8 : Byte) ≠ 2#8 ∧
    (enableFrame.take 4).length < 5 ∧ enableFrame[1]? = some 1#8 ∧ enableFrame[2]? = some 0#8 := by decide
theorem test_witness_temperature_rows : 9 ≤ vikingFrame.length ∧ vikingFrame[3]? = some 0x2A#8 ∧
    vikingFrame[4]? = some 0xAB#8 ∧ vikingFrame[5]? = some 0xCD#8 ∧ vikingFrame[6]? = some 0x80#8 ∧
    vikingFrame[7]? = some 0x19#8 ∧ vikingFrame[8]? = some 0x30#8 ∧ vikingFrame[1]? = some 0x50#8 ∧
    vikingFrame[2]? = some 7#8 ∧ lacrosseFrame[2]? = some 5#8 ∧ (vikingFrame.set 2 6#8)[2]? = some 6#8 ∧
    shortFrame.length < 9 := by decide
theorem test_witness_lighting_row : 12 ≤ lightingFrame.length ∧ lightingFrame[4]? = some 0#8 ∧
    lightingFrame[5]? = some 0xA1#8 ∧ lightingFrame[6]? = some 0xB2#8 ∧ lightingFrame[7]? = some 0xC3#8 ∧
    lightingFrame[8]? = some 10#8 ∧ lightingFrame[9]? = some 1#8 ∧ lightingFrame[11]? = some 0x60#8 ∧
    lightingFrame[1]? = some 0x11#8 ∧ lightingFrame[2]? = some 0#8 ∧ (lightingFrame.set 2 1#8)[2]? = some 1#8 ∧
    (lightingFrame.take 11).length < 12 := by decide
theorem test_witness_raw_unknown_rows : rawFrame[1]? = some 3#8 ∧ rawFrame[2]? = some 4#8 ∧
    unknownFrame[1]? = some 0xFF#8 ∧ unknownFrame[2]? = some 0#8 ∧ (unknownFrame.take 2).length < 3 := by decide
theorem test_witness_short_row : 1 ≤ ([0#8] : Frame).length ∧ ([1#8, 1#8] : Frame).length < 3 ∧
    (enableFrame.take 4)[1]? = some 1#8 ∧ (enableFrame.take 4)[2]? = some 0#8 ∧ (enableFrame.take 4).length < 5 := by decide
/-- Each row at its threshold: the raw row shut out, STATUS, another response, both temperatures, lighting, unknown. -/
theorem test_witness_trailing :
    ¬ (([] : List Byte)[0]? = some 3#8 ∧ ([] : List Byte)[1]? = some 4#8) ∧
    (let f := statusFrame.drop 1; f[0]? = some 1#8 ∧ f[1]? = some 0#8 ∧ f[3]? = some 2#8 ∧ (0#8 :: f).length = 7) ∧
    (let f := enableFrame.drop 1; f[0]? = some 1#8 ∧ f[1]? = some 0#8 ∧ f[3]? = some 4#8 ∧ (0#8 :: f).length = 5) ∧
    (let f := vikingFrame.drop 1; f[0]? = some 0x50#8 ∧ f[1]? = some 7#8 ∧ (0#8 :: f).length = 9) ∧
    (let f := lacrosseFrame.drop 1; f[0]? = some 0x50#8 ∧ f[1]? = some 5#8 ∧ 9 ≤ (0#8 :: f).length) ∧
    (let f := lightingFrame.drop 1; f[0]? = some 0x11#8 ∧ f[1]? = some 0#8 ∧ (0#8 :: f).length = 12) ∧
    Frame.recognised [0#8, 0xFF#8, 0#8] = false := by decide
theorem test_witness_fed_back : ready.sess = .ready ∧ ready.running = true ∧ ready.rxBuf = [] := by decide
theorem test_witness_init : State.reset.sess = .closed ∧ ready.sess ≠ .closed := by decide
theorem test_witness_run : ready.sess = .ready ∧ ({ ready with running := false } : State).running = false ∧
    ready.running = true ∧ State.reset.sess ≠ .ready := by decide
theorem test_witness_setswitch : ready.sess = .ready ∧ ready.txState = .idle ∧ (burst 2).txState ≠ .idle ∧
    State.reset.sess ≠ .ready := by decide
/-- A switch command offered during a burst, passed over by the step. -/
theorem test_witness_switch_waits :
    (next? (step { burst 2 with offers := [.hostOp 3#2 1#32 1#8 1#8 false, .tick] })).map State.offers =
      some [.hostOp 3#2 1#32 1#8 1#8 false] := by decide
theorem test_witness_tick_burst : (burst 2).txState = .delay ∧ countersLive (burst 2) = true ∧ (burst 2).txTimer = 1 ∧
    0 < (burst 2).txRep ∧ (burst 0).txRep = 0 ∧ (burst 2).sess ≠ .initializing ∧
    1 < ({ burst 2 with txTimer := 150 } : State).txTimer ∧
    countersLive { burst 2 with txTimer := 150 } = true := by decide
theorem test_witness_tick_idle : ready.sess ≠ .initializing ∧ ready.txState = .idle := by decide
theorem test_witness_tick_settle : settle.sess = .initializing ∧ settle.phase = .settle ∧ settle.txState = .idle ∧
    settle.timer = 1 ∧ 1 < ({ settle with timer := 2 } : State).timer := by decide
theorem test_witness_tick_waits : waitEnable.sess = .initializing ∧ waitEnable.txState = .idle ∧
    waitEnable.phase = .waitEnable ∧ waitEnable.rdTimer = 1 ∧ waitStatus.phase = .waitStatus ∧ waitStatus.rdTimer = 1 ∧
    1 < ({ waitEnable with rdTimer := 2 } : State).rdTimer := by decide
theorem test_witness_tick_stops : (settle.sess = .initializing ∧ settle.phase = .settle) ∧
    ({ settle with timer := 0 } : State).timer = 0 ∧ ({ waitEnable with rdTimer := 0 } : State).rdTimer = 0 ∧
    ({ burst 1 with txTimer := 0 } : State).txTimer = 0 := by decide
theorem test_witness_fault : settle.sess = .initializing ∧ ready.sess = .ready ∧ State.reset.sess = .closed ∧
    ({ ready with sess := .stopped } : State).sess = .stopped := by decide
/-- The invariant holds right after reset and along the handshake and a burst, whatever the two open parameters are. -/
theorem test_witness_inv_reset : Inv State.reset := by
  constructor <;> decide
/-- `Ready` after the handshake, with its outputs. -/
def readyReached : State := { ready with out := handshake.map .txWrite ++ [.initDone .ok] }
theorem test_witness_inv_ready : Inv readyReached := by
  constructor <;> decide
theorem test_witness_burst : Inv readyReached ∧ readyReached.sess = .ready ∧ readyReached.txState = .idle ∧
    Instr.reset ∉ List.replicate 449 Instr.tick ∧ Instr.transportFault ∉ List.replicate 449 Instr.tick ∧
    Instr.halt ∉ List.replicate 449 Instr.tick ∧ tickCount [] < 450 ∧ tickCount (List.replicate 449 .tick) = 449 := by
  have h : ∀ i, i ≠ Instr.tick → i ∉ List.replicate 449 Instr.tick := fun i hi hm => hi (List.eq_of_mem_replicate hm)
  refine ⟨test_witness_inv_ready, rfl, rfl, h _ nofun, h _ nofun, h _ nofun, ?_, List.count_replicate_self⟩
  simp [tickCount]
/-- A step from a state that meets the invariant, with every write a whole frame of an outbound format. -/
theorem test_witness_inv_step :
    (∀ w ∈ txWrites readyReached.out, OutboundFrame w) ∧
    (next? (step { readyReached with offers := [.hostOp 3#2 1#32 1#8 1#8 true] })).map State.txState = some .delay := by
  refine ⟨?_, by decide⟩
  intro w hw
  simp only [readyReached, handshake, txWrites, List.map, List.cons_append, List.nil_append, List.filterMap,
    Output.written, List.mem_cons, List.not_mem_nil, or_false] at hw
  rcases hw with rfl | rfl | rfl
  · exact .inl ⟨1#8, .reset, rfl⟩
  · exact .inl ⟨2#8, .enableAll, rfl⟩
  · exact .inl ⟨3#8, .status, rfl⟩
/-- The longest and the shortest outbound frame (VE1, VE5). -/
theorem test_witness_outbound : OutboundFrame [4#8, 0#8, 0#8, 1#8, 0#8] ∧ OutboundFrame switchFrame :=
  ⟨.inl ⟨1#8, .reset, rfl⟩, .inr ⟨0x01020304#32, 5#8, true, 7#8, rfl⟩⟩
theorem test_witness_refused :
    decode (.outbound [4#8, 0#8, 0#8, 1#8, 3#8]) = .error .undefinedCommand ∧
    step { ready with offers := [.outbound [4#8, 0#8, 0#8, 1#8, 3#8]] } = .refused (.undecodable .undefinedCommand) :=
  ⟨rfl, rfl⟩
/-- Each transition of the session is taken by some instruction. -/
theorem test_witness_transitions :
    (after [.init] State.reset).map State.sess = some .initializing ∧
    (after [.tick] settle).map State.phase = some .waitEnable ∧
    (after [.feed 0#8] waitEnable).map State.phase = some .waitStatus ∧
    (after [.feed 0#8] waitStatus).map State.sess = some .ready ∧
    (after [.halt] ready).map State.sess = some .stopped ∧
    (after [.transportFault] ready).map (fun t => (t.sess, t.err)) = some (.stopped, true) ∧
    (after [.reset] { ready with err := true }).map (fun t => (t.sess, t.err)) = some (.closed, false) := by decide
theorem test_witness_share : (after [.feed 1#8] (burst 1)).isSome = true ∧ (after [.tick] (burst 1)).isSome = true ∧
    (after [.setswitch 1#32 1#8 1#8 true] ready).isSome = true := by decide
/-- A dead cell with a value, and a fault kept by blanking. -/
theorem test_witness_dead : live { ready with timer := 7 } = ready ∧
    countersLive (live { settle with timer := 0 }) = false := by decide
theorem test_witness_silent : State.reset.sess = .closed ∧ State.reset.txState = .idle ∧ State.reset.ifSeq = 0#8 := by decide

end Sys2Proof.Tests
end

section
/-! The output trace only grows: one lemma per shared operation that writes records, then every instruction but RESET. -/

namespace Sys2Proof.Machine

/-- A fed byte's records go behind the trace (40_accumulator.md R97, 44_session.md R176). -/
theorem out_prefix_rxByte (b : Byte) (s : State) : s.out <+: (rxByte b s).out := by
  obtain ⟨-, -, -, -, -, -, -, -, -, -, hout, -⟩ := rxByte_frame b s
  exact hout

/-- ISSUE writes its command behind the trace (44_session.md R174). -/
theorem out_prefix_issue (c : IfCommand) (s : State) : s.out <+: (issue c s).out :=
  List.prefix_append ..

/-- SETSWITCH writes its frame behind the trace (43_retransmitter.md R141). -/
theorem out_prefix_startBurst (frame : Frame) (s : State) : s.out <+: (startBurst frame s).out :=
  List.prefix_append ..

/-- Both parts of a tick write behind the trace, the transmit part first (43_retransmitter.md R142, 44_session.md R175). -/
theorem out_prefix_tick (s : State) : s.out <+: (tickSession (tickTx s)).out := by
  obtain ⟨-, -, -, -, -, -, -, -, -, -, -, -, -, -, hTx⟩ := tickTx_frame s
  obtain ⟨-, -, -, -, -, -, -, -, -, -, -, -, hSession, -⟩ := tickSession_frame (tickTx s)
  exact hTx.trans hSession

/-- The fault entry's records go behind the trace (60_exceptions.md R196). -/
theorem out_prefix_faultEntry (s : State) : s.out <+: (faultEntry s).out := by
  simp only [faultEntry_eq, List.append_assoc]
  exact List.prefix_append ..

/-- Settles O53, over what an instruction can do (`exec_next_cases`): in every case but RESET's the new trace is the old
one with records behind it. -/
theorem outputsAreOnlyAppended : Obligations.OutputsAreOnlyAppended := by
  intro i s t hi h
  rcases exec_next_cases h with rfl | ⟨r, rfl⟩ | ⟨b, -, -, -, rfl⟩ | ⟨-, -, rfl⟩ | ⟨-, -, -, rfl⟩ | ⟨-, -, rfl⟩ |
    ⟨a, u, q, on, -, -, -, rfl⟩ | ⟨-, -, rfl⟩ | ⟨-, -, rfl⟩ | ⟨hreset, -⟩
  · exact List.prefix_rfl
  · exact List.prefix_rfl
  · exact out_prefix_rxByte b s
  · exact out_prefix_issue .reset { s with sess := .initializing }
  · exact List.prefix_rfl
  · exact List.prefix_append ..
  · exact out_prefix_startBurst (encSwcmd a u on q) s
  · exact out_prefix_tick s
  · exact out_prefix_faultEntry s
  · exact absurd hreset hi

end Sys2Proof.Machine
end

section
/-! The rules about the invariant: what each shared operation needs so that `Inv` holds after it, and the step from them. -/

namespace Sys2Proof.Machine

/-- Settles O32: the two branches of `nextSeq`, in the second of which the addition does not wrap. -/
theorem nextSequenceWrapsPastZero : Obligations.NextSequenceWrapsPastZero := by
  intro q
  by_cases hq : q = 255#8
  · subst hq
    decide
  · have hlt : q.toNat < 255 := by bv_omega
    have hne : q.toNat ≠ 255 := by omega
    simp only [nextSeq, hq, hne, if_false]
    constructor <;> bv_omega

/-- Settles O45: `State.reset` is the table, field by field. -/
theorem resetStateHoldsTheResetTable : Obligations.ResetStateHoldsTheResetTable := by
  unfold Obligations.ResetStateHoldsTheResetTable
  simp [State.reset]

/-- Settles O48: closed, idle and with nothing written, the reset state meets each clause, most of them because what they
speak of (a burst, a handshake, a stop) is not there. -/
theorem resetStateMeetsTheInvariant : Obligations.ResetStateMeetsTheInvariant where
  accumulator := Memory.reset_wf
  idle _ := rfl
  delay := nofun
  burst := nofun
  loop := nofun
  error := ⟨nofun, rfl⟩
  settle := nofun
  wait := nofun
  sequence := rfl
  stopped := nofun
  commands := rfl
  firmware := ⟨rfl, rfl⟩
  pairing := rfl

/-! Fields that the invariant does not speak of, or only in one clause. -/

/-- What is offered is outside the invariant (10_state.md R27). -/
theorem Inv.setOffers {s : State} (h : Inv s) (ws : List OfferWord) : Inv { s with offers := ws } := { h with }

/-- The reply of a component call is outside the invariant (10_state.md R23). -/
theorem Inv.setReply {s : State} (h : Inv s) (r : Option Reply) : Inv { s with reply := r } := { h with }

theorem Inv.setRxBuf {s : State} (h : Inv s) {buf : Frame} (hbuf : Memory.wf buf = true) :
    Inv { s with rxBuf := buf } := { h with accumulator := hbuf }

/-- The timers of initialisation are free outside it and outside the phase that counts them (10_state.md R18). -/
theorem Inv.setTimers {s : State} (h : Inv s) {tm rd : Nat}
    (hsettle : s.sess = .initializing → s.phase = .settle → 1 ≤ tm ∧ tm ≤ Config.tSettle)
    (hwait : s.sess = .initializing → s.phase ≠ .settle → 1 ≤ rd ∧ rd ≤ Config.tRead) :
    Inv { s with timer := tm, rdTimer := rd } := { h with settle := hsettle, wait := hwait }

/-- The transmit cells are in the clauses I3, I4 and `burst` only (10_state.md R19). -/
theorem Inv.setTransmit {s : State} (h : Inv s) {buf : Frame} {st : TxState} {rep tm : Nat}
    (hidle : st = .idle → rep = 0)
    (hdelay : st = .delay → 1 ≤ tm ∧ tm ≤ 150 ∧ rep ≤ 2 ∧ ∃ a u on q, buf = encSwcmd a u on q)
    (hburst : st = .delay → s.sess = .ready ∨ s.sess = .stopped) :
    Inv { s with txBuf := buf, txState := st, txRep := rep, txTimer := tm } :=
  { h with idle := hidle, delay := hdelay, burst := hburst }

/-- The receive loop starts in Ready (44_session.md R169). -/
theorem Inv.setRunning {s : State} (h : Inv s) (hs : s.sess = .ready) : Inv { s with running := true } :=
  { h with loop := fun _ => hs }

/-! Records. -/

/-- A record that is no interface command, no `Ev(Status)` and no `InitDone`: the invariant does not count it. -/
structure Output.Uncounted (o : Output) : Prop where
  commands : interfaceWrites [o] = []
  revision : lastRevision [o] = none
  initDone : initDoneCount [o] = 0

theorem Output.uncounted_setSwitchDone (r : Status) : (Output.setSwitchDone r).Uncounted := ⟨rfl, rfl, rfl⟩
theorem Output.uncounted_runReturned (r : Status) : (Output.runReturned r).Uncounted := ⟨rfl, rfl, rfl⟩
theorem Output.uncounted_encSwcmd (a : BitVec 32) (u : Byte) (on : Bool) (q : Byte) :
    (Output.txWrite (encSwcmd a u on q)).Uncounted := ⟨rfl, rfl, rfl⟩

theorem Inv.emit {s : State} (h : Inv s) {o : Output} (ho : o.Uncounted) : Inv (s.emit o) :=
  { h with
    commands := by simp [ho.commands, h.commands]
    firmware := by simpa [lastRevision_append, ho.revision] using h.firmware
    pairing := by
      have hcount : initDoneCount (s.emit o).out = initDoneCount s.out := by simp [ho.initDone]
      exact hcount.trans h.pairing }

theorem Inv.emitIf {s : State} (h : Inv s) {o : Output} (ho : o.Uncounted) (c : Bool) : Inv (s.emitIf c o) := by
  cases c
  · exact h
  · exact h.emit ho

/-- A result's record and the firmware record it leaves agree (41_decoder.md R112, 44_session.md R173). -/
theorem Inv.deliver {s : State} (h : Inv s) (r : Decoded) : Inv (deliver r s) := by
  obtain ⟨hvalid, hrev⟩ := h.firmware
  have hfirmware : (Machine.deliver r s).fwValid = (lastRevision (Machine.deliver r s).out).isSome ∧
      (Machine.deliver r s).fwRev = (lastRevision (Machine.deliver r s).out).getD 0#8 := by
    rw [deliver_eq]
    cases r with
    | status v => simp [lastRevision_append, Decoded.record]
    | temperature _ _ _ _ _ _ => simpa [lastRevision_append] using ⟨hvalid, hrev⟩
    | deviceState _ _ _ _ => simpa [lastRevision_append] using ⟨hvalid, hrev⟩
    | none _ => simpa [lastRevision_append] using ⟨hvalid, hrev⟩
  rw [deliver_eq] at hfirmware ⊢
  exact { h with
    commands := by simp [h.commands]
    firmware := hfirmware
    pairing := by simpa using h.pairing }

/-! The handshake. -/

/-- The sequence of the next command, where fewer than 255 were sent (10_state.md R15). -/
theorem nextSeq_toNat_of_lt {q : Byte} (h : q.toNat < 255) : (nextSeq q).toNat = q.toNat + 1 := by
  rw [(nextSequenceWrapsPastZero q).1, if_neg (by omega)]

/-- Before the handshake is over its next command can be issued: the one in the handshake's list at the count of those
sent. The timers have to be set for the phase that follows (44_session.md R161, R162, R165, R174). -/
theorem Inv.issue {s : State} (h : Inv s) {c : IfCommand} {p : Phase} {tm rd : Nat}
    (hsess : s.sess = .closed ∨ s.sess = .initializing)
    (hcommand : handshake[commandsSent s]? = some (encIfcmd (BitVec.ofNat 8 (commandsSent s + 1)) c))
    (hphase : commandsSent { s with sess := .initializing, phase := p } = commandsSent s + 1)
    (hsettle : p = .settle → 1 ≤ tm ∧ tm ≤ Config.tSettle)
    (hwait : p ≠ .settle → 1 ≤ rd ∧ rd ≤ Config.tRead) :
    Inv { issue c s with sess := .initializing, phase := p, timer := tm, rdTimer := rd } := by
  have hlt : commandsSent s < 3 := by
    by_contra hge
    rw [List.getElem?_eq_none (by simpa [handshake] using hge)] at hcommand
    cases hcommand
  have hseq : (nextSeq s.ifSeq).toNat = commandsSent s + 1 := by
    rw [nextSeq_toNat_of_lt (by rw [h.sequence]; omega), h.sequence]
  have hword : nextSeq s.ifSeq = BitVec.ofNat 8 (commandsSent s + 1) := by
    rw [← hseq, BitVec.ofNat_toNat, BitVec.setWidth_eq]
  have hidle : s.txState ≠ .delay := fun hd => by
    rcases h.burst hd with hs | hs <;> simp [hs] at hsess
  exact {
    accumulator := h.accumulator
    idle := h.idle
    delay := h.delay
    burst := fun hd => absurd hd hidle
    loop := fun hr => by simp [h.loop hr] at hsess
    error := ⟨fun he => by simp [h.error.1 he] at hsess, h.error.2⟩
    settle := fun _ => hsettle
    wait := fun _ => hwait
    sequence := hseq.trans hphase.symm
    stopped := nofun
    commands := by
      simp only [issue_eq, interfaceWrites_append, interfaceWrites_encIfcmd, h.commands]
      rw [hseq, h.sequence, List.take_add_one, hcommand, hword, Option.toList_some]
    firmware := by simpa [issue_eq, lastRevision_append] using h.firmware
    pairing := by simpa [issue_eq, hsess] using h.pairing }

/-- SENDSTATUS, at the end of the first wait (44_session.md R165). -/
theorem Inv.sendStatus {s : State} (h : Inv s) (hs : s.sess = .initializing) (hp : s.phase = .waitEnable) :
    Inv (sendStatus s) := by
  have hsent : commandsSent s = 2 := by simp [commandsSent, hs, hp]
  have hnext := h.issue (c := .status) (p := .waitStatus) (tm := s.timer) (rd := Config.tRead) (.inr hs)
    (by rw [hsent]; rfl) (by rw [hsent]; rfl) nofun (fun _ => ⟨Nat.succ_pos _, le_rfl⟩)
  rwa [← hs] at hnext

/-- COMPLETE, at the end of the second wait, whatever the read time-out holds then (44_session.md R168). -/
theorem Inv.complete {s : State} (h : Inv s) (hs : s.sess = .initializing) (hp : s.phase = .waitStatus) (rd : Nat) :
    Inv (complete { s with rdTimer := rd }) := by
  have hidle : s.txState ≠ .delay := fun hd => by
    rcases h.burst hd with hs' | hs' <;> simp [hs'] at hs
  have hsent : commandsSent s = 3 := by simp [commandsSent, hs, hp]
  rw [complete_eq]
  exact { h with
    burst := fun hd => absurd hd hidle
    loop := fun _ => rfl
    error := ⟨fun he => by simp [h.error.1 he] at hs, h.error.2⟩
    settle := nofun
    wait := nofun
    sequence := h.sequence.trans hsent
    stopped := nofun
    commands := by simpa using h.commands
    firmware := by simpa [lastRevision_append] using h.firmware
    pairing := by simpa [hs] using h.pairing }

/-! The receive step. -/

/-- A byte restarts the read time-out at its full value (44_session.md R176). -/
theorem Inv.restartRead {s : State} (h : Inv s) : Inv (restartRead s) := by
  rw [restartRead_eq]
  exact h.setTimers h.settle (fun hs _ => by rw [if_pos hs]; exact ⟨Nat.succ_pos _, le_rfl⟩)

theorem Inv.endWait {s : State} (h : Inv s) : Inv (endWait s) := by
  rcases endWait_cases s with ⟨hs, hp, he⟩ | ⟨hs, hp, he⟩ | ⟨-, he⟩ <;> rw [he]
  · exact h.sendStatus hs hp
  · exact h.complete hs hp s.rdTimer
  · exact h

theorem Inv.rxByte {s : State} (h : Inv s) (b : Byte) : Inv (rxByte b s) := by
  have hwf := accumulate_keeps_wf b s.rxBuf h.accumulator
  cases hd : done (s.rxBuf ++ [b])
  · rw [accumulate_unfinished b s.rxBuf hd] at hwf
    rw [rxByte_unfinished hd]
    exact (h.setRxBuf hwf).restartRead
  · rw [rxByte_finished hd]
    exact ((h.setRxBuf (buf := []) rfl).restartRead.deliver _).endWait

/-! The burst and the tick. -/

/-- SETSWITCH in Ready starts a burst of two more writes, 150 ticks apart (43_retransmitter.md R141). -/
theorem Inv.startBurst {s : State} (h : Inv s) (hs : s.sess = .ready) (a : BitVec 32) (u : Byte) (on : Bool) (q : Byte) :
    Inv (startBurst (encSwcmd a u on q) s) :=
  (h.setTransmit (buf := encSwcmd a u on q) (st := .delay) (rep := 2) (tm := 150) nofun
    (fun _ => ⟨by decide, le_rfl, le_rfl, a, u, on, q, rfl⟩) (fun _ => .inl hs)).emit
      (Output.uncounted_encSwcmd a u on q)

theorem Inv.tickTx {s : State} (h : Inv s) : Inv (tickTx s) := by
  rcases tickTx_cases s with ⟨-, he⟩ | ⟨hd, ht, he⟩ | ⟨hd, -, hr, he⟩ | ⟨hd, -, hr, he⟩ <;> rw [he]
  · exact h
  · obtain ⟨hlow, hhigh, hrep, hframe⟩ := h.delay hd
    exact h.setTransmit h.idle (fun _ => ⟨by omega, by omega, hrep, hframe⟩) h.burst
  · obtain ⟨-, -, hrep, a, u, on, q, hframe⟩ := h.delay hd
    have hcounted := h.setTransmit (buf := s.txBuf) (st := s.txState) (rep := s.txRep - 1) (tm := 150)
      (fun hi => by simp [hd] at hi) (fun _ => ⟨by decide, le_rfl, by omega, a, u, on, q, hframe⟩) h.burst
    have hrecord := Output.uncounted_encSwcmd a u on q
    rw [← hframe] at hrecord
    exact hcounted.emit hrecord
  · have hended := h.setTransmit (buf := s.txBuf) (st := .idle) (rep := s.txRep) (tm := 0) (fun _ => hr) nofun nofun
    exact hended.emit (Output.uncounted_setSwitchDone .ok)

theorem Inv.tickSession {s : State} (h : Inv s) : Inv (tickSession s) := by
  rcases tickSession_cases s with ⟨-, he⟩ | ⟨hs, hp, ht, he⟩ | ⟨hs, hp, -, he⟩ | ⟨hs, hp, ht, he⟩ | ⟨hs, hp, -, he⟩ |
    ⟨hs, hp, -, he⟩ <;> rw [he]
  · exact h
  · have hrange := h.settle hs hp
    exact h.setTimers (fun _ _ => by omega) h.wait
  · have hsent : commandsSent s = 1 := by simp [commandsSent, hs, hp]
    have hnext := h.issue (c := .enableAll) (p := .waitEnable) (tm := 0) (rd := Config.tRead) (.inr hs)
      (by rw [hsent]; rfl) (by rw [hsent]; rfl) nofun (fun _ => ⟨Nat.succ_pos _, le_rfl⟩)
    rwa [← hs] at hnext
  · have hrange := h.wait hs hp
    exact h.setTimers h.settle (fun _ _ => by omega)
  · exact h.sendStatus hs hp
  · exact h.complete hs hp 0

/-! The host operations and the fault. -/

/-- INIT issues the handshake's first command and starts the settle timer (44_session.md R161). -/
theorem Inv.init {s : State} (h : Inv s) (hs : s.sess = .closed) :
    Inv { Machine.issue .reset { s with sess := .initializing } with phase := .settle, timer := Config.tSettle } := by
  have hsent : commandsSent s = 0 := by simp [commandsSent, hs]
  exact h.issue (c := .reset) (p := .settle) (tm := Config.tSettle) (rd := s.rdTimer) (.inl hs)
    (by rw [hsent]; rfl) (by rw [hsent]; rfl) (fun _ => ⟨Nat.succ_pos _, le_rfl⟩) (fun hn => absurd rfl hn)

/-- With the port open, one to three commands were sent (44_session.md R161 to R168). -/
theorem commandsSent_of_open {s : State} (hs : s.sess = .initializing ∨ s.sess = .ready) :
    1 ≤ commandsSent s ∧ commandsSent s ≤ 3 := by
  rcases hs with hs | hs
  · cases hp : s.phase <;> simp [commandsSent, hs, hp]
  · simp [commandsSent, hs]

/-- A session stops from an open port: with `InitDone(err)` exactly where no `InitDone` came before
(44_session.md R172, 60_exceptions.md R196). -/
theorem Inv.stop {s : State} (h : Inv s) (hopen : s.sess = .initializing ∨ s.sess = .ready) {e : Bool} {code : Byte}
    (hcode : code = if e then 1#8 else 0#8) :
    Inv (({ s with err := e, errCode := code, running := false, sess := .stopped } : State).emitIf
      (s.sess == .initializing) (.initDone .err)) := by
  have hsent := commandsSent_of_open hopen
  rw [← h.sequence] at hsent
  have hstopped : Inv { s with
      err := e, errCode := code, running := false, sess := .stopped,
      out := s.out ++ (if s.sess == .initializing then [.initDone .err] else []) } :=
    { h with
      burst := fun _ => .inr rfl
      loop := nofun
      error := ⟨fun _ => rfl, hcode⟩
      settle := nofun
      wait := nofun
      sequence := rfl
      stopped := fun _ => hsent
      commands := by rcases hopen with hs | hs <;> simp [hs, h.commands]
      firmware := by rcases hopen with hs | hs <;> simpa [hs, lastRevision_append] using h.firmware
      pairing := by rcases hopen with hs | hs <;> simpa [hs] using h.pairing }
  rcases hopen with hs | hs <;> simpa [State.emitIf, State.emit, hs] using hstopped

/-- HALT (44_session.md R172). -/
theorem Inv.halt {s : State} (h : Inv s) (hs : s.sess = .ready) :
    Inv { s with running := false, sess := .stopped,
                 out := s.out ++ (if s.running then [.runReturned .ok] else []) } := by
  have hstopped := (h.stop (.inr hs) h.error.2).emitIf (Output.uncounted_runReturned .ok) s.running
  cases hr : s.running <;> simpa [State.emitIf, State.emit, hs, hr] using hstopped

/-- The fault entry: the burst is dropped, the session stops, and the records say what was broken off
(60_exceptions.md R196). -/
theorem Inv.faultEntry {s : State} (h : Inv s) (hopen : s.sess = .initializing ∨ s.sess = .ready) :
    Inv (faultEntry s) := by
  have hdropped := h.setTransmit (buf := s.txBuf) (st := .idle) (rep := 0) (tm := s.txTimer) (fun _ => rfl) nofun nofun
  have hstopped := hdropped.stop hopen (e := true) (code := transportCode) rfl
  exact (hstopped.emitIf (Output.uncounted_runReturned .err) s.running).emitIf
    (Output.uncounted_setSwitchDone .err) (txBusy s)

/-- Every instruction keeps the invariant: one rule for each thing an instruction can do (`exec_next_cases`). -/
theorem Inv.exec {i : Instr} {s t : State} (h : Inv s) (ht : exec i s = .next t) : Inv t := by
  rcases exec_next_cases ht with rfl | ⟨r, rfl⟩ | ⟨b, -, -, -, rfl⟩ | ⟨-, hs, rfl⟩ | ⟨-, hs, -, rfl⟩ | ⟨-, hs, rfl⟩ |
    ⟨a, u, q, on, -, hs, -, rfl⟩ | ⟨-, -, rfl⟩ | ⟨-, hopen, rfl⟩ | ⟨-, rfl⟩
  · exact h
  · exact h.setReply (some r)
  · exact h.rxByte b
  · exact h.init hs
  · exact h.setRunning hs
  · exact h.halt hs
  · exact h.startBurst hs a u on q
  · exact h.tickTx.tickSession
  · exact h.faultEntry hopen
  · exact Inv.setOffers resetStateMeetsTheInvariant s.offers

/-- Settles O47: a step leaves the state as it is, or takes an offered word out, which the invariant does not see, and
executes its instruction. -/
theorem everyStepKeepsTheInvariant : Obligations.EveryStepKeepsTheInvariant := by
  intro s t h ht
  rcases step_next_cases ht with ⟨rfl, -⟩ | ⟨before, _, after, i, -, -, -, -, hexec⟩
  · exact h
  · exact (h.setOffers (before ++ after)).exec hexec

end Sys2Proof.Machine
end

section
/-! The step and the offers; FEED's guard and its stop; the error; the status outputs. -/

namespace Sys2Proof.Machine

/-! The offers. -/

/-- A word whose instruction is not enabled is not ready (10_state.md R22). -/
theorem not_ready_of_stalled {s : State} {w : OfferWord} (h : ∃ j, decode w = .ok j ∧ enabled j s = false) :
    ready w s = false := by
  obtain ⟨j, hj, hoff⟩ := h
  rw [ready_of_decode hj, hoff]

/-- Settles O6: `takeReady` passes over the stalled words and takes `w`. -/
theorem stepRunsTheFirstReadyOffer : Obligations.StepRunsTheFirstReadyOffer := by
  intro s before after w i hoffers hbefore hdecode hon
  have htaken := takeReady_stalled (s := s) (after := after) (w := w)
    (fun x hx => not_ready_of_stalled (hbefore x hx)) (by rw [ready_of_decode hdecode, hon])
  simp [step, fetch, hoffers, htaken, hdecode]

/-- A list of words that are not ready yields none (10_state.md R22). -/
theorem takeReady_eq_none {s : State} {ws : List OfferWord} (h : ∀ x ∈ ws, ready x s = false) :
    takeReady s ws = none := by
  cases ht : takeReady s ws with
  | none => rfl
  | some p =>
    obtain ⟨before, after, rfl, -, hready, -⟩ := takeReady_some ht
    rw [h p.1 (by simp)] at hready
    cases hready

/-- Settles O7: no word is ready, so none is fetched. -/
theorem stepIdlesWhenEveryOfferIsStalled : Obligations.StepIdlesWhenEveryOfferIsStalled := by
  intro s h
  have hnone : takeReady s s.offers = none := takeReady_eq_none fun x hx => not_ready_of_stalled (h x hx)
  simp [step, fetch, hnone]

/-- Settles O46, over what an instruction can do (`exec_next_cases`): the shared operations that feed, tick and stop leave
the offers by their frame lemmas, and the other updates do not name them. -/
theorem noInstructionTouchesTheOffers : Obligations.NoInstructionTouchesTheOffers := by
  intro i s t h
  rcases exec_next_cases h with rfl | ⟨r, rfl⟩ | ⟨b, -, -, -, rfl⟩ | ⟨-, -, rfl⟩ | ⟨-, -, -, rfl⟩ | ⟨-, -, rfl⟩ |
    ⟨a, u, q, on, -, -, -, rfl⟩ | ⟨-, -, rfl⟩ | ⟨-, -, rfl⟩ | ⟨-, rfl⟩
  · rfl
  · rfl
  · obtain ⟨-, -, -, -, -, -, -, hoffers, -⟩ := rxByte_frame b s
    exact hoffers
  · rfl
  · rfl
  · rfl
  · rfl
  · obtain ⟨-, -, -, -, -, -, -, -, hTx, -⟩ := tickTx_frame s
    obtain ⟨-, -, -, -, -, -, -, hSession, -⟩ := tickSession_frame (tickTx s)
    exact hSession.trans hTx
  · rw [faultEntry_eq]
  · rfl

/-- Settles O8: what a step takes out is the first ready word (`step_next_cases`), and the instruction it runs leaves the
other offers (O46). -/
theorem stepKeepsEveryStalledOffer : Obligations.StepKeepsEveryStalledOffer := by
  intro s t h
  rcases step_next_cases h with ⟨rfl, -⟩ | ⟨before, w, after, i, hoffers, hbefore, hready, hdecode, hexec⟩
  · exact .inl rfl
  · have hkept : t.offers = before ++ after := noInstructionTouchesTheOffers i _ t hexec
    rw [ready_of_decode hdecode] at hready
    exact .inr ⟨before, w, after, hoffers, hkept, fun x hx => stalled_of_not_ready (hbefore x hx), i, hdecode, hready⟩

/-! FEED. -/

/-- FEED by its guard and the room in the buffer (40_accumulator.md R90, 10_state.md R10, R22). -/
theorem exec_feed (b : Byte) (s : State) :
    exec (.feed b) s =
      whenEnabled (.feed b) s (if s.rxBuf.length < 256 then .next (rxByte b s) else .fault .rxBufOverrun) := rfl

/-- Settles O10: none of the four situations is a read phase. -/
theorem feedHasNoStepOutsideTheReadPhases : Obligations.FeedHasNoStepOutsideTheReadPhases := by
  intro s b h
  have hoff : enabled (.feed b) s = false := by
    rcases h with hs | ⟨hs, hp⟩ | ⟨hs, hr⟩ | hs <;> simp [enabled, reading, *]
  rw [exec_feed, whenEnabled_off hoff]

/-- Settles O18: FEED stops where it is enabled and the buffer has no room, and there only. -/
theorem feedStopsOnlyOnAFullBuffer : Obligations.FeedStopsOnlyOnAFullBuffer := by
  intro s b r
  rw [← enabled_feed_iff (b := b), exec_feed]
  cases hon : enabled (.feed b) s
  · simp [whenEnabled_off hon]
  · rw [whenEnabled_on hon]
    by_cases hroom : s.rxBuf.length < 256
    · simp [hroom]
    · simp [hroom, eq_comm, Nat.le_of_not_lt hroom]

/-! The error. -/

/-- The three things that can happen to `err` and `err_code` (10_state.md R17, 60_exceptions.md R196, R202). -/
theorem exec_error_cases {i : Instr} {s t : State} (h : exec i s = .next t) :
    (t.err = s.err ∧ t.errCode = s.errCode) ∨
      (i = .transportFault ∧ (s.sess = .initializing ∨ s.sess = .ready) ∧ t.err = true ∧ t.errCode = 1#8) ∨
      (i = .reset ∧ t.err = false) := by
  rcases exec_next_cases h with rfl | ⟨r, rfl⟩ | ⟨b, -, -, -, rfl⟩ | ⟨-, -, rfl⟩ | ⟨-, -, -, rfl⟩ | ⟨-, -, rfl⟩ |
    ⟨a, u, q, on, -, -, -, rfl⟩ | ⟨-, -, rfl⟩ | ⟨hi, hopen, rfl⟩ | ⟨hi, rfl⟩
  · exact .inl ⟨rfl, rfl⟩
  · exact .inl ⟨rfl, rfl⟩
  · obtain ⟨-, -, -, -, herr, hcode, -⟩ := rxByte_frame b s
    exact .inl ⟨herr, hcode⟩
  · exact .inl ⟨rfl, rfl⟩
  · exact .inl ⟨rfl, rfl⟩
  · exact .inl ⟨rfl, rfl⟩
  · exact .inl ⟨rfl, rfl⟩
  · obtain ⟨-, -, -, -, -, herrTx, hcodeTx, -⟩ := tickTx_frame s
    obtain ⟨-, -, -, -, herr, hcode, -⟩ := tickSession_frame (tickTx s)
    exact .inl ⟨herr.trans herrTx, hcode.trans hcodeTx⟩
  · exact .inr (.inl ⟨hi, hopen, by rw [faultEntry_eq], by rw [faultEntry_eq]⟩)
  · exact .inr (.inr ⟨hi, rfl⟩)

/-- Settles O52, from the three things that can happen to the error (`exec_error_cases`). -/
theorem errorIsStickyUntilReset : Obligations.ErrorIsStickyUntilReset := by
  intro i s t h
  rcases exec_error_cases h with ⟨herr, hcode⟩ | ⟨hi, hopen, herr, hcode⟩ | ⟨hi, herr⟩
  · exact ⟨fun hs ht => by simp [herr, hs] at ht, fun hs ht => by simp [herr, hs] at ht, fun _ => .inl hcode⟩
  · exact ⟨fun _ _ => ⟨hi, hopen, hcode⟩, fun _ ht => by simp [herr] at ht, fun _ => .inr (.inr hi)⟩
  · exact ⟨fun _ ht => by simp [herr] at ht, fun _ _ => hi, fun _ => .inr (.inl hi)⟩

/-! The status outputs. -/

/-- When the port is open (10_state.md R26). -/
theorem portOpen_iff {s : State} : portOpen s = true ↔ s.sess = .initializing ∨ s.sess = .ready := by
  simp [portOpen]

/-- When a burst is in flight (10_state.md R26). -/
theorem txBusy_iff {s : State} : txBusy s = true ↔ s.txState ≠ .idle := by
  simp [txBusy]

/-- The read phases (10_state.md R22). -/
theorem reading_iff {s : State} :
    reading s = true ↔
      (s.sess = .initializing ∧ (s.phase = .waitEnable ∨ s.phase = .waitStatus)) ∨
        (s.sess = .ready ∧ s.running = true) := by
  cases hs : s.sess <;> simp [reading, hs]

/-- The codes of `sess` are different for different values (10_state.md R26). -/
theorem sessCode_injective : Function.Injective sessCode := by
  intro a b h
  cases a <;> cases b <;> revert h <;> decide

/-- Settles O59: the copies hold by definition, the predicates by their own equivalences, the codes by their being
different. -/
theorem statusOutputsFollowTheState : Obligations.StatusOutputsFollowTheState := fun _ =>
  ⟨portOpen_iff, txBusy_iff, reading_iff, rfl, rfl, rfl, rfl, rfl,
    sessCode_injective.eq_iff' rfl, sessCode_injective.eq_iff' rfl, sessCode_injective.eq_iff' rfl,
    sessCode_injective.eq_iff' rfl⟩

end Sys2Proof.Machine
end

section
/-! The cells that hold no value are never read: each shared operation respects their blanking, then each instruction. -/

namespace Sys2Proof.Machine

/-! Blanking leaves what it does not blank, and what is counted while it is counted. -/

@[simp] theorem live_rxBuf (s : State) : (live s).rxBuf = s.rxBuf := rfl
@[simp] theorem live_sess (s : State) : (live s).sess = s.sess := rfl
@[simp] theorem live_running (s : State) : (live s).running = s.running := rfl
@[simp] theorem live_txState (s : State) : (live s).txState = s.txState := rfl

@[simp] theorem live_live (s : State) : live (live s) = live s := by
  cases hs : s.sess <;> cases hp : s.phase <;> cases hx : s.txState <;> simp [live, hs, hp, hx]

/-- The guards read live cells only (10_state.md R22). -/
theorem enabled_live (i : Instr) (s : State) : enabled i (live s) = enabled i s := by
  have hreading : reading (live s) = reading s := by
    cases hs : s.sess <;> simp [reading, live, hs]
  cases i <;> simp [enabled, hreading]

/-- A timer is checked only where it is counted (10_state.md R18). -/
theorem countersLive_live (s : State) : countersLive (live s) = countersLive s := by
  cases hs : s.sess <;> cases hp : s.phase <;> cases hx : s.txState <;> simp [countersLive, live, hs, hp, hx]

/-! The shared operations. -/

/-- Blanking the dead cells before an operation changes nothing live after it. -/
def RespectsLive (f : State → State) : Prop := ∀ s, live (f (live s)) = live (f s)

/-- One operation after another reads no dead cell if neither does. -/
theorem RespectsLive.comp {f g : State → State} (hg : RespectsLive g) (hf : RespectsLive f) :
    RespectsLive fun s => g (f s) := fun s =>
  calc live (g (f (live s))) = live (g (live (f (live s)))) := (hg _).symm
    _ = live (g (live (f s))) := by rw [hf s]
    _ = live (g (f s)) := hg _

/-- An operation that commutes with blanking reads no dead cell. -/
theorem RespectsLive.of_commutes {f : State → State} (h : ∀ s, f (live s) = live (f s)) : RespectsLive f := fun s => by
  rw [h, live_live]

theorem respectsLive_answer (r : Reply) : RespectsLive (State.answer · r) := .of_commutes fun _ => rfl

theorem respectsLive_setRxBuf (buf : Frame) : RespectsLive ({ · with rxBuf := buf }) := .of_commutes fun _ => rfl

theorem respectsLive_deliver (r : Decoded) : RespectsLive (deliver r) := .of_commutes fun s => by
  rw [deliver_eq, deliver_eq]
  cases r <;> rfl

theorem respectsLive_emitIf (c : Bool) (o : Output) : RespectsLive (State.emitIf · c o) := .of_commutes fun _ => by
  cases c <;> rfl

theorem respectsLive_restartRead : RespectsLive restartRead := fun s => by
  cases hs : s.sess <;> cases hp : s.phase <;> cases hx : s.txState <;> simp [restartRead_eq, live, hs, hp, hx]

theorem respectsLive_endWait : RespectsLive endWait := fun s => by
  cases hs : s.sess with
  | initializing =>
    cases hp : s.phase <;> cases hx : s.txState <;> simp [endWait, sendStatus_eq, complete_eq, live, hs, hp, hx]
  | closed => simp [endWait, hs]
  | ready => simp [endWait, hs]
  | stopped => simp [endWait, hs]

theorem respectsLive_rxByte (b : Byte) : RespectsLive (rxByte b) := fun s => by
  cases hd : done (s.rxBuf ++ [b])
  · rw [rxByte_unfinished (s := live s) hd, rxByte_unfinished hd]
    exact respectsLive_restartRead.comp (respectsLive_setRxBuf _) s
  · rw [rxByte_finished (s := live s) hd, rxByte_finished hd]
    exact respectsLive_endWait.comp
      ((respectsLive_deliver _).comp (respectsLive_restartRead.comp (respectsLive_setRxBuf []))) s

/-- The transmit timer and frame are read in a burst only (10_state.md R19). -/
theorem respectsLive_tickTx : RespectsLive tickTx := fun s => by
  cases hx : s.txState with
  | idle => simp [tickTx, hx]
  | delay =>
    by_cases ht : s.txTimer - 1 = 0 <;> by_cases hr : 0 < s.txRep <;>
      cases hs : s.sess <;> cases hp : s.phase <;> simp [tickTx, State.write, State.emit, live, hx, ht, hr, hs, hp]

/-- Each timer of initialisation is read in its own phase only, and the phase in initialisation only (10_state.md R18). -/
theorem respectsLive_tickSession : RespectsLive tickSession := fun s => by
  cases hs : s.sess with
  | initializing =>
    cases hp : s.phase with
    | settle =>
      by_cases ht : s.timer - 1 = 0 <;> cases hx : s.txState <;>
        simp [tickSession, tickSettle, issue_eq, live, hs, hp, ht, hx]
    | waitEnable =>
      by_cases ht : s.rdTimer - 1 = 0 <;> cases hx : s.txState <;>
        simp [tickSession, tickWait, sendStatus_eq, live, hs, hp, ht, hx]
    | waitStatus =>
      by_cases ht : s.rdTimer - 1 = 0 <;> cases hx : s.txState <;>
        simp [tickSession, tickWait, complete_eq, live, hs, hp, ht, hx]
  | closed => simp [tickSession, hs]
  | ready => simp [tickSession, hs]
  | stopped => simp [tickSession, hs]

/-- After the fault entry no phase, no timer and no burst is left to read (60_exceptions.md R196). -/
theorem respectsLive_faultEntry : RespectsLive faultEntry := fun s => by
  simp [faultEntry_eq, live, txBusy]

/-- A burst writes its cells before it reads them (43_retransmitter.md R141). -/
theorem respectsLive_startBurst (frame : Frame) : RespectsLive (startBurst frame) := fun s => by
  cases hs : s.sess <;> cases hp : s.phase <;> simp [startBurst_eq, live, hs, hp]

/-- INIT writes the phase and the settle timer before they are read (44_session.md R161). -/
theorem respectsLive_init : RespectsLive fun s =>
    { issue .reset { s with sess := .initializing } with phase := .settle, timer := Config.tSettle } := fun s => by
  cases hx : s.txState <;> simp [issue_eq, live, hx]

theorem respectsLive_setRunning : RespectsLive ({ · with running := true }) := .of_commutes fun _ => rfl

theorem respectsLive_stop : RespectsLive ({ · with running := false, sess := .stopped }) := fun s => by
  cases hx : s.txState <;> simp [live, hx]

/-! The instructions. -/

/-- Two outcomes of one kind, with the same live cells or the same fault; a refusal agrees with nothing. -/
def LiveAgree : Host.Outcome State Fault Refusal → Host.Outcome State Fault Refusal → Prop
  | .next t, .next t' => live t' = live t
  | .fault r, .fault r' => r' = r
  | _, _ => False

/-- An instruction's step, guarded by its enabling condition, reads no dead cell if the step does not. -/
theorem LiveAgree.whenEnabled {i : Instr} {s : State} {k k' : Host.Outcome State Fault Refusal} (h : LiveAgree k k') :
    LiveAgree (whenEnabled i s k) (whenEnabled i (live s) k') := by
  cases hon : enabled i s
  · rw [whenEnabled_off hon, whenEnabled_off ((enabled_live i s).trans hon)]
    exact live_live s
  · rw [whenEnabled_on hon, whenEnabled_on ((enabled_live i s).trans hon)]
    exact h

/-- A direct component call reads no cell of the block at all (10_state.md R23). -/
theorem LiveAgree.answer (s : State) (r : Reply) : LiveAgree (.next (s.answer r)) (.next ((live s).answer r)) :=
  respectsLive_answer r s

/-- Every instruction has the same outcome on the blanked state, up to dead cells. -/
theorem exec_live (i : Instr) (s : State) : LiveAgree (exec i s) (exec i (live s)) := by
  cases i with
  | feed b =>
    refine LiveAgree.whenEnabled ?_
    rw [live_rxBuf]
    split
    · exact respectsLive_rxByte b s
    · rfl
  | init => exact LiveAgree.whenEnabled (respectsLive_init s)
  | run => exact LiveAgree.whenEnabled (respectsLive_setRunning s)
  | halt => exact LiveAgree.whenEnabled ((respectsLive_emitIf s.running (.runReturned .ok)).comp respectsLive_stop s)
  | setswitch a u q on => exact LiveAgree.whenEnabled (respectsLive_startBurst (encSwcmd a u on q) s)
  | tick =>
    simp only [exec, execTick, countersLive_live]
    split
    · exact respectsLive_tickSession.comp respectsLive_tickTx s
    · rfl
  | transportFault =>
    have hopen : portOpen (live s) = portOpen s := rfl
    simp only [exec, execTransportFault, hopen]
    split
    · exact respectsLive_faultEntry s
    · exact live_live s
  | reset => rfl
  | decIfrespStatus | decIfrespOther | decTempLacrosse | decTempViking | decLightingAc | decRawLacrosse | decUnknown
  | decShort | encIfcmdReset | encIfcmdStatus | encIfcmdEnableAll | encIfcmdEnableUndecoded | encSwcmd =>
    exact LiveAgree.answer s _

theorem LiveAgree.of_next {t : State} {o : Host.Outcome State Fault Refusal} (h : LiveAgree (.next t) o) :
    ∃ t', o = .next t' ∧ live t' = live t := by
  cases o with
  | next t' => exact ⟨t', rfl, h⟩
  | fault _ => exact h.elim
  | refused _ => exact h.elim

theorem LiveAgree.of_fault {r : Fault} {o : Host.Outcome State Fault Refusal} (h : LiveAgree (.fault r) o) :
    o = .fault r := by
  cases o with
  | next _ => exact h.elim
  | fault _ => exact congrArg Host.Outcome.fault h
  | refused _ => exact h.elim

/-- Settles O55: the outcomes with and without the dead cells agree (`exec_live`), read off by the kind of the first. -/
theorem deadCellsAreNeverRead : Obligations.DeadCellsAreNeverRead := by
  intro i s
  have hagree := exec_live i s
  refine ⟨fun t ht => ?_, fun r hr => ?_, fun r hr => ?_⟩
  · rw [ht] at hagree
    exact hagree.of_next
  · rw [hr] at hagree
    exact hagree.of_fault
  · rw [hr] at hagree
    exact hagree

end Sys2Proof.Machine
end

section
/-! The RX stream: which words carry a received byte, and in what order a step takes them. -/

namespace Sys2Proof.Machine

/-! Only the RX stream's words decode to FEED (30_encoding.md R60; log 4). -/

/-- The Packet Decoder's dispatch has no FEED row (41_decoder.md R101). -/
theorem selectRow_ne_feed (f : Frame) (b : Byte) : selectRow f ≠ .feed b := by
  unfold selectRow
  split_ifs <;> nofun

theorem decodeFrameWord_ne_feed (f : Frame) (b : Byte) : decodeFrameWord f ≠ .ok (.feed b) := by
  unfold decodeFrameWord
  split_ifs
  · nofun
  · exact fun h => selectRow_ne_feed f b (Except.ok.inj h)

theorem ifcmdRow_ne_feed (sequence code b : Byte) : ifcmdRow sequence code ≠ .ok (.feed b) := by
  unfold ifcmdRow
  split_ifs <;> nofun

theorem decodeOutbound_ne_feed (w : Frame) (b : Byte) : decodeOutbound w ≠ .ok (.feed b) := by
  unfold decodeOutbound
  split
  case h_1 =>
    split_ifs
    · exact ifcmdRow_ne_feed _ _ b
    · nofun
  case h_2 => split_ifs <;> nofun
  case h_3 => nofun

theorem decodeHostOp_ne_feed (op : BitVec 2) (a : BitVec 32) (u q : Byte) (on : Bool) (b : Byte) :
    decodeHostOp op a u q on ≠ .feed b := by
  unfold decodeHostOp
  split_ifs <;> nofun

/-- FEED comes of a received byte and of nothing else (20_memory.md R40 (3)). -/
theorem receivedByte_of_decode_feed {w : OfferWord} {b : Byte} (h : decode w = .ok (.feed b)) :
    receivedByte w = some b := by
  cases w with
  | rxByte c =>
    cases h
    rfl
  | frame f => exact absurd h (decodeFrameWord_ne_feed f b)
  | outbound w => exact absurd h (decodeOutbound_ne_feed w b)
  | hostOp op a u q on => exact absurd (Except.ok.inj h) (decodeHostOp_ne_feed op a u q on b)
  | tick => cases h
  | transportFault => cases h
  | reset => cases h

/-- Received bytes are the words of the RX port. -/
theorem eq_rxByte_of_receivedByte {w : OfferWord} {b : Byte} (h : receivedByte w = some b) : w = .rxByte b := by
  cases w with
  | rxByte c => exact congrArg OfferWord.rxByte (Option.some.inj h)
  | _ => cases h

/-! The bytes still to be received. -/

@[simp] theorem receivedBytes_append (ws vs : List OfferWord) :
    receivedBytes (ws ++ vs) = receivedBytes ws ++ receivedBytes vs := List.filterMap_append

theorem receivedBytes_cons_none {w : OfferWord} (h : receivedByte w = none) (ws : List OfferWord) :
    receivedBytes (w :: ws) = receivedBytes ws := List.filterMap_cons_none h

theorem receivedBytes_cons_rxByte (b : Byte) (ws : List OfferWord) :
    receivedBytes (.rxByte b :: ws) = b :: receivedBytes ws := rfl

/-- In a read phase every received byte is ready, so the words a step passes over hold none (10_state.md R22). -/
theorem receivedBytes_of_stalled {s : State} (hs : reading s = true) {ws : List OfferWord}
    (h : ∀ x ∈ ws, ready x s = false) : receivedBytes ws = [] := by
  refine List.filterMap_eq_nil_iff.mpr fun x hx => Option.eq_none_iff_forall_ne_some.mpr fun b hb => ?_
  have hstalled : reading s = false := by
    have hx' := h x hx
    rwa [eq_rxByte_of_receivedByte hb] at hx'
  rw [hs] at hstalled
  cases hstalled

/-- Settles O9, by whether the word the step takes carries a received byte: if not, its instruction is no FEED and the
stream stays; if so, the block is reading, and no byte is offered before it. -/
theorem receivedBytesAreFedInOrder : Obligations.ReceivedBytesAreFedInOrder := by
  intro s t h
  rcases step_next_cases h with ⟨rfl, -⟩ | ⟨before, w, after, i, hoffers, hbefore, hready, hdecode, hexec⟩
  · exact .inl rfl
  · have hkept : t.offers = before ++ after := noInstructionTouchesTheOffers i _ t hexec
    rw [← hkept] at hexec
    cases hw : receivedByte w with
    | none =>
      have hother : ∀ b, i ≠ .feed b := by
        rintro b rfl
        rw [receivedByte_of_decode_feed hdecode] at hw
        cases hw
      have hstream : receivedBytes t.offers = receivedBytes s.offers := by
        simp [hkept, hoffers, receivedBytes_cons_none hw]
      exact .inr (.inl ⟨i, hother, hstream, hexec⟩)
    | some b =>
      obtain rfl := eq_rxByte_of_receivedByte hw
      obtain rfl : Instr.feed b = i := Except.ok.inj hdecode
      have hreading : reading s = true := hready
      have hstream : receivedBytes s.offers = b :: receivedBytes t.offers := by
        simp [hkept, hoffers, receivedBytes_cons_rxByte, receivedBytes_of_stalled hreading hbefore]
      exact .inr (.inr ⟨b, hreading, hstream, hexec⟩)

end Sys2Proof.Machine
end

section
/-! The encoding: the row of each kind of frame, its key and mask form, the outbound frames and the host codes, and the
round trips between words and instructions (30_encoding.md). -/

namespace Sys2Proof.Machine

/-! The checks on a frame as propositions. -/

/-- The header check as the two reads (30_encoding.md R61). -/
theorem hasKey_iff {f : Frame} {type subtype : Byte} :
    f.hasKey type subtype = true ↔ f[1]? = some type ∧ f[2]? = some subtype := by
  simp [Frame.hasKey]

/-- A frame with a type and a subtype has its three header bytes. -/
theorem three_le_length_of_hasKey {f : Frame} {type subtype : Byte} (h : f.hasKey type subtype = true) :
    3 ≤ f.length := (List.getElem?_eq_some_iff.mp (hasKey_iff.mp h).2).1

/-- The header of a frame decides every other header check. -/
theorem hasKey_iff_of_hasKey {f : Frame} {t st : Byte} (h : f.hasKey t st = true) (t' st' : Byte) :
    f.hasKey t' st' = true ↔ t = t' ∧ st = st' := by
  obtain ⟨ht, hst⟩ := hasKey_iff.mp h
  rw [hasKey_iff, ht, hst, Option.some.injEq, Option.some.injEq]

/-- The sizes of a frame (30_encoding.md R60). -/
theorem sized_iff {f : Frame} : f.sized = true ↔ 1 ≤ f.length ∧ f.length ≤ 256 := by
  simp [Frame.sized]

/-- A frame of no recognised pair has none of the five headers (30_encoding.md R76). -/
theorem recognised_eq_false_iff {f : Frame} :
    f.recognised = false ↔
      f.hasKey 0x01#8 0x00#8 = false ∧ f.hasKey 0x50#8 0x05#8 = false ∧ f.hasKey 0x50#8 0x07#8 = false ∧
        f.hasKey 0x11#8 0x00#8 = false ∧ f.hasKey 0x03#8 0x04#8 = false := by
  simp only [Frame.recognised, Bool.or_eq_false_iff, and_assoc]

/-- The kinds of frame the dispatch tells apart (30_encoding.md R75): no header, one of the five recognised headers, any
other header. -/
theorem frame_header_cases (f : Frame) :
    f.length < 3 ∨ f.hasKey 0x01#8 0x00#8 = true ∨ f.hasKey 0x50#8 0x05#8 = true ∨ f.hasKey 0x50#8 0x07#8 = true ∨
      f.hasKey 0x11#8 0x00#8 = true ∨ f.hasKey 0x03#8 0x04#8 = true ∨ 3 ≤ f.length ∧ f.recognised = false := by
  rcases lt_or_ge f.length 3 with hshort | hheader
  · exact .inl hshort
  · cases hrec : f.recognised with
    | false => simp [hheader]
    | true =>
      simp only [Frame.recognised, Bool.or_eq_true] at hrec
      tauto

/-! The row of each kind of frame (41_decoder.md R101, R110). -/

/-- The dispatch by the header checks. -/
theorem selectRow_eq_of_header {f : Frame} (h : 3 ≤ f.length) :
    selectRow f =
      if f.hasKey 0x01#8 0x00#8 then
        if f.length < 5 then .decShort f 5
        else if f[4]? = some 0x02#8 then
          if f.length < 7 then .decShort f 7 else .decIfrespStatus f
        else .decIfrespOther f
      else if f.hasKey 0x50#8 0x05#8 then
        if f.length < 9 then .decShort f 9 else .decTempLacrosse f
      else if f.hasKey 0x50#8 0x07#8 then
        if f.length < 9 then .decShort f 9 else .decTempViking f
      else if f.hasKey 0x11#8 0x00#8 then
        if f.length < 12 then .decShort f 12 else .decLightingAc f
      else if f.hasKey 0x03#8 0x04#8 then .decRawLacrosse f
      else .decUnknown f := by
  simp only [selectRow, if_neg (Nat.not_lt.mpr h), hasKey_iff]

theorem selectRow_noHeader {f : Frame} (h : f.length < 3) : selectRow f = .decShort f 3 := if_pos h

theorem selectRow_ifresp {f : Frame} (h : f.hasKey 0x01#8 0x00#8 = true) :
    selectRow f =
      if f.length < 5 then .decShort f 5
      else if f[4]? = some 0x02#8 then
        if f.length < 7 then .decShort f 7 else .decIfrespStatus f
      else .decIfrespOther f := by
  rw [selectRow_eq_of_header (three_le_length_of_hasKey h), if_pos h]

theorem selectRow_lacrosse {f : Frame} (h : f.hasKey 0x50#8 0x05#8 = true) :
    selectRow f = if f.length < 9 then .decShort f 9 else .decTempLacrosse f := by
  simp [selectRow_eq_of_header (three_le_length_of_hasKey h), hasKey_iff_of_hasKey h]

theorem selectRow_viking {f : Frame} (h : f.hasKey 0x50#8 0x07#8 = true) :
    selectRow f = if f.length < 9 then .decShort f 9 else .decTempViking f := by
  simp [selectRow_eq_of_header (three_le_length_of_hasKey h), hasKey_iff_of_hasKey h]

theorem selectRow_lighting {f : Frame} (h : f.hasKey 0x11#8 0x00#8 = true) :
    selectRow f = if f.length < 12 then .decShort f 12 else .decLightingAc f := by
  simp [selectRow_eq_of_header (three_le_length_of_hasKey h), hasKey_iff_of_hasKey h]

theorem selectRow_raw {f : Frame} (h : f.hasKey 0x03#8 0x04#8 = true) : selectRow f = .decRawLacrosse f := by
  simp [selectRow_eq_of_header (three_le_length_of_hasKey h), hasKey_iff_of_hasKey h]

theorem selectRow_unknown {f : Frame} (hlen : 3 ≤ f.length) (h : f.recognised = false) :
    selectRow f = .decUnknown f := by
  obtain ⟨hifresp, hlacrosse, hviking, hlighting, hraw⟩ := recognised_eq_false_iff.mp h
  simp [selectRow_eq_of_header hlen, hifresp, hlacrosse, hviking, hlighting, hraw]

/-- A frame that is too short at a threshold is answered with that threshold (41_decoder.md R110). -/
theorem selectRow_short {f : Frame} {need : Nat} (h : f.shortAt need = true) : selectRow f = .decShort f need := by
  simp only [Frame.shortAt, Bool.and_eq_true, Bool.or_eq_true, decide_eq_true_eq, beq_iff_eq] at h
  obtain ⟨hlt, (((rfl | ⟨rfl, hkey⟩) | ⟨⟨rfl, hkey⟩, hcommand⟩) | ⟨rfl, hkey | hkey⟩) | ⟨rfl, hkey⟩⟩ := h
  · exact selectRow_noHeader hlt
  · rw [selectRow_ifresp hkey, if_pos hlt]
  · have hfive : ¬ f.length < 5 := Nat.not_lt.mpr (List.getElem?_eq_some_iff.mp hcommand).1
    rw [selectRow_ifresp hkey, if_neg hfive, if_pos hcommand, if_pos hlt]
  · rw [selectRow_lacrosse hkey, if_pos hlt]
  · rw [selectRow_viking hkey, if_pos hlt]
  · rw [selectRow_lighting hkey, if_pos hlt]

/-! Frames as words. -/

/-- A byte sequence of a frame's size is answered by its row (41_decoder.md R100). -/
theorem decode_frame_of_sized {f : Frame} (h : f.sized = true) : decode (.frame f) = .ok (selectRow f) := by
  obtain ⟨hpos, hcap⟩ := sized_iff.mp h
  exact if_neg (by omega)

/-- Whatever the decoder answers for a byte sequence is the row of a frame. -/
theorem sized_of_decode_frame {f : Frame} {i : Instr} (h : decode (.frame f) = .ok i) :
    f.sized = true ∧ selectRow f = i := by
  simp only [decode, decodeFrameWord] at h
  split_ifs at h with hsize
  exact ⟨sized_iff.mpr (by omega), Except.ok.inj h⟩

/-- The row of a frame is called on that frame. -/
theorem encode_selectRow (f : Frame) : encode (selectRow f) = .frame f := by
  unfold selectRow
  split_ifs <;> rfl

/-- The row of a frame meets the row's checks, threshold by threshold (41_decoder.md R110). -/
theorem selectRow_wellFormed {f : Frame} (h : f.sized = true) : (selectRow f).wellFormed = true := by
  rcases frame_header_cases f with hlen | hkey | hkey | hkey | hkey | hkey | ⟨hlen, hrec⟩
  · simp [selectRow_noHeader hlen, Instr.wellFormed, Frame.shortAt, h, hlen]
  · rw [selectRow_ifresp hkey]
    split_ifs with hfive hcommand hseven
    · simp [Instr.wellFormed, Frame.shortAt, h, hkey, hfive]
    · simp [Instr.wellFormed, Frame.shortAt, h, hkey, hcommand, hseven]
    · simp [Instr.wellFormed, h, hkey, hcommand, Nat.not_lt.mp hseven]
    · simp [Instr.wellFormed, h, hkey, hcommand, Nat.not_lt.mp hfive]
  · rw [selectRow_lacrosse hkey]
    split_ifs with hshort
    · simp [Instr.wellFormed, Frame.shortAt, h, hkey, hshort]
    · simp [Instr.wellFormed, h, hkey, Nat.not_lt.mp hshort]
  · rw [selectRow_viking hkey]
    split_ifs with hshort
    · simp [Instr.wellFormed, Frame.shortAt, h, hkey, hshort]
    · simp [Instr.wellFormed, h, hkey, Nat.not_lt.mp hshort]
  · rw [selectRow_lighting hkey]
    split_ifs with hshort
    · simp [Instr.wellFormed, Frame.shortAt, h, hkey, hshort]
    · simp [Instr.wellFormed, h, hkey, Nat.not_lt.mp hshort]
  · simp [selectRow_raw hkey, Instr.wellFormed, h, hkey]
  · simp [selectRow_unknown hlen hrec, Instr.wellFormed, h, hlen, hrec]

/-- A well-formed instruction on a frame is the row of that frame: its checks are those under which the dispatch reaches
it (30_encoding.md R75). -/
theorem selectRow_of_wellFormed {i : Instr} {f : Frame} (hword : encode i = .frame f) (h : i.wellFormed = true) :
    f.sized = true ∧ selectRow f = i := by
  cases i with
  | decIfrespStatus g =>
    obtain rfl := OfferWord.frame.inj hword
    simp only [Instr.wellFormed, Bool.and_eq_true, beq_iff_eq, decide_eq_true_eq] at h
    obtain ⟨⟨⟨hsized, hkey⟩, hcommand⟩, hlen⟩ := h
    exact ⟨hsized, by rw [selectRow_ifresp hkey, if_neg (by omega), if_pos hcommand, if_neg (by omega)]⟩
  | decIfrespOther g =>
    obtain rfl := OfferWord.frame.inj hword
    simp only [Instr.wellFormed, Bool.and_eq_true, Bool.not_eq_true', beq_eq_false_iff_ne, decide_eq_true_eq] at h
    obtain ⟨⟨⟨hsized, hkey⟩, hcommand⟩, hlen⟩ := h
    exact ⟨hsized, by rw [selectRow_ifresp hkey, if_neg (by omega), if_neg hcommand]⟩
  | decTempLacrosse g =>
    obtain rfl := OfferWord.frame.inj hword
    simp only [Instr.wellFormed, Bool.and_eq_true, decide_eq_true_eq] at h
    obtain ⟨⟨hsized, hkey⟩, hlen⟩ := h
    exact ⟨hsized, by rw [selectRow_lacrosse hkey, if_neg (by omega)]⟩
  | decTempViking g =>
    obtain rfl := OfferWord.frame.inj hword
    simp only [Instr.wellFormed, Bool.and_eq_true, decide_eq_true_eq] at h
    obtain ⟨⟨hsized, hkey⟩, hlen⟩ := h
    exact ⟨hsized, by rw [selectRow_viking hkey, if_neg (by omega)]⟩
  | decLightingAc g =>
    obtain rfl := OfferWord.frame.inj hword
    simp only [Instr.wellFormed, Bool.and_eq_true, decide_eq_true_eq] at h
    obtain ⟨⟨hsized, hkey⟩, hlen⟩ := h
    exact ⟨hsized, by rw [selectRow_lighting hkey, if_neg (by omega)]⟩
  | decRawLacrosse g =>
    obtain rfl := OfferWord.frame.inj hword
    obtain ⟨hsized, hkey⟩ := Bool.and_eq_true_iff.mp h
    exact ⟨hsized, selectRow_raw hkey⟩
  | decUnknown g =>
    obtain rfl := OfferWord.frame.inj hword
    simp only [Instr.wellFormed, Bool.and_eq_true, Bool.not_eq_true', decide_eq_true_eq] at h
    obtain ⟨⟨hsized, hlen⟩, hrec⟩ := h
    exact ⟨hsized, selectRow_unknown hlen hrec⟩
  | decShort g need =>
    obtain rfl := OfferWord.frame.inj hword
    obtain ⟨hsized, hshort⟩ := Bool.and_eq_true_iff.mp h
    exact ⟨hsized, selectRow_short hshort⟩
  | _ => cases hword

/-- The frame rows' round trip (30_encoding.md R75). -/
theorem decode_encode_of_frame {i : Instr} {f : Frame} (hword : encode i = .frame f) (h : i.wellFormed = true) :
    decode (encode i) = .ok i := by
  obtain ⟨hsized, hrow⟩ := selectRow_of_wellFormed hword h
  rw [hword, decode_frame_of_sized hsized, hrow]

/-! Outbound frames and host operations (30_encoding.md R66, R67, R78). -/

/-- ENC.SWCMD's round trip: the address is split and joined again, and each state has its code (30_encoding.md R67). -/
theorem decode_encode_encSwcmd (a : BitVec 32) (u : Byte) (on : Bool) (q : Byte) :
    decode (encode (.encSwcmd a u on q)) = .ok (.encSwcmd a u on q) := by
  cases on <;> simp [encode, decode, decodeOutbound, join32_byteOf32]

/-- Settles O1, constructor by constructor: the frame rows by the dispatch, ENC.SWCMD by its address, the rest by their
literal words. -/
theorem decodeOfEncodeIsTheInstruction : Obligations.DecodeOfEncodeIsTheInstruction := by
  intro i h
  cases i with
  | decIfrespStatus | decIfrespOther | decTempLacrosse | decTempViking | decLightingAc | decRawLacrosse | decUnknown
  | decShort => exact decode_encode_of_frame rfl h
  | encSwcmd a u on q => exact decode_encode_encSwcmd a u on q
  | feed | encIfcmdReset | encIfcmdStatus | encIfcmdEnableAll | encIfcmdEnableUndecoded | init | run | halt | setswitch
  | tick | transportFault | reset => rfl

/-- The interface command of a code has that code (30_encoding.md R74). -/
theorem encode_of_ifcmdRow {q c : Byte} {i : Instr} (h : ifcmdRow q c = .ok i) :
    i.wellFormed = true ∧ encode i = ifcmdWord q c := by
  unfold ifcmdRow at h
  split_ifs at h with hreset hstatus hall hundecoded <;> obtain rfl := Except.ok.inj h
  · exact ⟨rfl, hreset ▸ rfl⟩
  · exact ⟨rfl, hstatus ▸ rfl⟩
  · exact ⟨rfl, hall ▸ rfl⟩
  · exact ⟨rfl, hundecoded ▸ rfl⟩

/-- The switch command of four address bytes has these bytes (30_encoding.md R67). -/
theorem encode_encSwcmd_join32 (a3 a2 a1 a0 u : Byte) (on : Bool) (q : Byte) :
    encode (.encSwcmd (join32 a3 a2 a1 a0) u on q) =
      .outbound [0x0C#8, 0x11#8, 0x00#8, q, a3, a2, a1, a0, u, stateCode on, 0x00#8, 0x00#8, 0x00#8] := by
  obtain ⟨h3, h2, h1, h0⟩ := byteOf32_join32 a3 a2 a1 a0
  simp [encode, stateCode, h3, h2, h1, h0]

/-- An outbound frame that is a row is the row's frame (30_encoding.md R66, R67). -/
theorem encode_of_decodeOutbound {w : Frame} {i : Instr} (h : decodeOutbound w = .ok i) :
    i.wellFormed = true ∧ encode i = .outbound w := by
  unfold decodeOutbound at h
  split at h
  case h_1 length type subtype q c =>
    split_ifs at h with hheader
    obtain ⟨rfl, rfl, rfl⟩ := hheader
    exact encode_of_ifcmdRow h
  case h_2 length type subtype q a3 a2 a1 a0 u state group dim reserved =>
    split_ifs at h with hfixed hon hoff
    · obtain ⟨rfl, rfl, rfl, rfl, rfl, rfl⟩ := hfixed
      obtain rfl := Except.ok.inj h
      subst hon
      exact ⟨rfl, encode_encSwcmd_join32 a3 a2 a1 a0 u true q⟩
    · obtain ⟨rfl, rfl, rfl, rfl, rfl, rfl⟩ := hfixed
      obtain rfl := Except.ok.inj h
      subst hoff
      exact ⟨rfl, encode_encSwcmd_join32 a3 a2 a1 a0 u false q⟩
  case h_3 => cases h

/-- Every host operation is well formed (30_encoding.md R78). -/
theorem decodeHostOp_wellFormed (op : BitVec 2) (a : BitVec 32) (u q : Byte) (on : Bool) :
    (decodeHostOp op a u q on).wellFormed = true := by
  unfold decodeHostOp
  split_ifs <;> rfl

/-- Settles O2, port by port: a frame's row is called on that frame, and an outbound frame's row builds that frame. -/
theorem decodedInstructionIsWellFormedAndEncodesBack : Obligations.DecodedInstructionIsWellFormedAndEncodesBack := by
  intro w i h
  cases w with
  | frame f =>
    obtain ⟨hsized, rfl⟩ := sized_of_decode_frame h
    exact ⟨selectRow_wellFormed hsized, fun _ => encode_selectRow f⟩
  | outbound w =>
    obtain ⟨hwf, hencode⟩ := encode_of_decodeOutbound h
    exact ⟨hwf, fun _ => hencode⟩
  | hostOp op a u q on =>
    obtain rfl := Except.ok.inj h
    exact ⟨decodeHostOp_wellFormed op a u q on, fun hport => absurd rfl (hport op a u q on)⟩
  | rxByte | tick | transportFault | reset =>
    obtain rfl := Except.ok.inj h
    exact ⟨rfl, fun _ => rfl⟩

/-! The key and mask form (30_encoding.md R75). -/

theorem dispatchKey_toNat (t st : Byte) (c : Option Byte) :
    (dispatchKey t st c).toNat = (t.toNat * 256 + st.toNat) * 256 + (c.getD 0x00#8).toNat := by
  have hc := (c.getD 0x00#8).isLt
  simp only [dispatchKey, BitVec.toNat_append]
  rw [← Nat.shiftLeft_add_eq_or_of_lt hc, Nat.shiftLeft_eq, join16_toNat]

/-- Keys agree when their types, subtypes and command bytes do. -/
theorem dispatchKey_eq_iff {t st t' st' : Byte} {c c' : Option Byte} :
    dispatchKey t st c = dispatchKey t' st' c' ↔ t = t' ∧ st = st' ∧ c.getD 0x00#8 = c'.getD 0x00#8 := by
  have hst := st.isLt
  have hst' := st'.isLt
  have hc := (c.getD 0x00#8).isLt
  have hc' := (c'.getD 0x00#8).isLt
  simp only [← BitVec.toNat_inj, dispatchKey_toNat]
  omega

/-- The header mask blanks the command byte. -/
theorem dispatchKey_and_headerMask (t st : Byte) (c : Option Byte) :
    dispatchKey t st c &&& 0xFFFF00#24 = dispatchKey t st none :=
  calc dispatchKey t st c &&& 0xFFFF00#24
      = (join16 t st &&& BitVec.allOnes 16) ++ (c.getD 0x00#8 &&& 0x00#8) :=
        BitVec.and_append (x₁ := join16 t st) (x₂ := BitVec.allOnes 16) (y₁ := c.getD 0x00#8) (y₂ := 0x00#8)
    _ = dispatchKey t st none := by rw [BitVec.and_allOnes, BitVec.and_zero]; rfl

/-- A row with the header mask matches the frames of its header. -/
theorem dispatchKey_matches_header {f : Frame} {t st t' st' : Byte} (ht : f[1]? = some t) (hst : f[2]? = some st)
    (c : Option Byte) :
    dispatchKey t st c &&& 0xFFFF00#24 = dispatchKey t' st' none ↔ f.hasKey t' st' = true := by
  rw [dispatchKey_and_headerMask, dispatchKey_eq_iff, hasKey_iff, ht, hst, Option.some.injEq, Option.some.injEq]
  simp

/-- The whole mask matches the frames of a header with a command byte, where that byte is not 0x00, which stands for a
missing one. -/
theorem dispatchKey_matches_command {f : Frame} {t st t' st' b : Byte} (ht : f[1]? = some t) (hst : f[2]? = some st)
    (hb : b ≠ 0x00#8) (c : Option Byte) :
    dispatchKey t st c &&& 0xFFFFFF#24 = dispatchKey t' st' (some b) ↔ f.hasKey t' st' = true ∧ c = some b := by
  have hcommand : c.getD 0x00#8 = b ↔ c = some b := by cases c <;> simp [hb.symm]
  rw [show 0xFFFFFF#24 = BitVec.allOnes 24 from rfl, BitVec.and_allOnes, dispatchKey_eq_iff, hasKey_iff, ht, hst,
    Option.some.injEq, Option.some.injEq, Option.getD_some, hcommand, and_assoc]

/-- The patterns of the rows as keys (30_encoding.md R75). -/
theorem keyRows_eq :
    keyRows =
      [ ⟨0xFFFFFF#24, dispatchKey 0x01#8 0x00#8 (some 0x02#8), 7, .decIfrespStatus⟩,
        ⟨0xFFFF00#24, dispatchKey 0x01#8 0x00#8 none, 5, .decIfrespOther⟩,
        ⟨0xFFFF00#24, dispatchKey 0x50#8 0x05#8 none, 9, .decTempLacrosse⟩,
        ⟨0xFFFF00#24, dispatchKey 0x50#8 0x07#8 none, 9, .decTempViking⟩,
        ⟨0xFFFF00#24, dispatchKey 0x11#8 0x00#8 none, 12, .decLightingAc⟩,
        ⟨0xFFFF00#24, dispatchKey 0x03#8 0x04#8 none, 3, .decRawLacrosse⟩,
        ⟨0x000000#24, 0x000000#24, 3, .decUnknown⟩ ] := rfl

/-- The key and mask form by the header checks. -/
theorem selectRowByKey_eq_of_header {f : Frame} (h : 3 ≤ f.length) :
    selectRowByKey f =
      if f.hasKey 0x01#8 0x00#8 = true ∧ f[4]? = some 0x02#8 then
        if f.length < 7 then .decShort f 7 else .decIfrespStatus f
      else if f.hasKey 0x01#8 0x00#8 then
        if f.length < 5 then .decShort f 5 else .decIfrespOther f
      else if f.hasKey 0x50#8 0x05#8 then
        if f.length < 9 then .decShort f 9 else .decTempLacrosse f
      else if f.hasKey 0x50#8 0x07#8 then
        if f.length < 9 then .decShort f 9 else .decTempViking f
      else if f.hasKey 0x11#8 0x00#8 then
        if f.length < 12 then .decShort f 12 else .decLightingAc f
      else if f.hasKey 0x03#8 0x04#8 then .decRawLacrosse f
      else .decUnknown f := by
  have ht : f[1]? = some f[1] := List.getElem?_eq_getElem _
  have hst : f[2]? = some f[2] := List.getElem?_eq_getElem _
  have hlen : ¬ f.length < 3 := Nat.not_lt.mpr h
  have hheader := fun t' st' => dispatchKey_matches_header (t' := t') (st' := st') ht hst f[4]?
  have hstatus := dispatchKey_matches_command (t' := 0x01#8) (st' := 0x00#8) (b := 0x02#8) ht hst (by decide) f[4]?
  have hany := BitVec.and_zero (x := dispatchKey f[1] f[2] f[4]?)
  simp only [selectRowByKey, ht, hst, keyRows_eq, firstKeyRow, hstatus, hheader, hany, hlen, if_true, if_false]

/-- A frame without a subtype is answered before a key is formed (30_encoding.md R75). -/
theorem selectRowByKey_noHeader {f : Frame} (h : f.length < 3) : selectRowByKey f = .decShort f 3 := by
  have hst : f[2]? = none := List.getElem?_eq_none (by omega)
  simp [selectRowByKey, hst]

/-- The two forms of the dispatch agree. They differ in where an interface response of fewer than 5 bytes goes: the
dispatch checks its size before its command byte, the key takes the missing command byte as 0. -/
theorem selectRowByKey_eq_selectRow (f : Frame) : selectRowByKey f = selectRow f := by
  rcases lt_or_ge f.length 3 with hshort | hheader
  · rw [selectRowByKey_noHeader hshort, selectRow_noHeader hshort]
  · rw [selectRowByKey_eq_of_header hheader, selectRow_eq_of_header hheader]
    cases hkey : f.hasKey 0x01#8 0x00#8 with
    | false => simp
    | true =>
      rcases lt_or_ge f.length 5 with hfive | hfive
      · have hcommand : f[4]? = none := List.getElem?_eq_none (by omega)
        simp [hfive, hcommand]
      · by_cases hcommand : f[4]? = some 0x02#8
        · simp [hfive.not_gt, hcommand]
        · simp [hfive.not_gt, hcommand]

/-- Settles O3, by the agreement of the two forms on every byte sequence. -/
theorem keyAndMaskFormSelectsTheDispatchRow : Obligations.KeyAndMaskFormSelectsTheDispatchRow := by
  intro f hpos hcap
  rw [decode_frame_of_sized (sized_iff.mpr ⟨hpos, hcap⟩), selectRowByKey_eq_selectRow]

/-! Words written out from the spec. -/

/-- Settles O4: each word is literal, and the decoder evaluates on it. -/
theorem specWordsDecodeToTheirRows : Obligations.SpecWordsDecodeToTheirRows :=
  ⟨rfl, rfl, rfl, rfl, rfl, rfl, rfl, rfl, rfl, rfl, rfl⟩

end Sys2Proof.Machine
end

section
/-! The accumulator: FEED in the middle of a frame and on its last byte, a frame over its bytes, and that no step faults
(40_accumulator.md). -/

namespace Sys2Proof.Machine

/-! The form of the buffer, against `done`. -/

/-- A buffer in form holds no completed frame (10_state.md R28 I1, 40_accumulator.md R91). -/
theorem Memory.done_of_wf {buf : Frame} (h : Memory.wf buf = true) : done buf = false := by
  cases buf with
  | nil => rfl
  | cons length rest =>
    simp only [Memory.wf, List.length_cons, decide_eq_true_eq] at h
    simp only [done_cons, decide_eq_false_iff_not]
    omega

/-- The bytes before some others, in a buffer that is in form, are in form (10_state.md R28 I1). -/
theorem Memory.wf_of_append {buf more : Frame} (h : Memory.wf (buf ++ more) = true) : Memory.wf buf = true := by
  cases buf with
  | nil => rfl
  | cons length rest =>
    simp only [List.cons_append, Memory.wf, List.length_cons, List.length_append, decide_eq_true_eq] at h ⊢
    omega

/-- What stands before the byte that completes a frame is in form (40_accumulator.md R91). -/
theorem Memory.wf_of_done_append {buf : Frame} {b : Byte} (h : done (buf ++ [b]) = true) : Memory.wf buf = true := by
  cases buf with
  | nil => rfl
  | cons length rest =>
    simp only [List.cons_append, done_cons, List.length_append, List.length_singleton, decide_eq_true_eq] at h
    simp only [Memory.wf, List.length_cons, decide_eq_true_eq]
    omega

/-! FEED in a read phase. -/

/-- In a read phase, with room in the buffer, FEED is the receive step (40_accumulator.md R90). -/
theorem exec_feed_of_reading {b : Byte} {s : State}
    (hread : (s.sess = .initializing ∧ s.phase ≠ .settle) ∨ (s.sess = .ready ∧ s.running = true))
    (hroom : s.rxBuf.length < 256) : exec (.feed b) s = .next (rxByte b s) := by
  rw [exec_feed, whenEnabled_on (enabled_feed_iff.mpr hread), if_pos hroom]

/-- Settles O11: the byte does not complete the frame, so the receive step only appends it and restarts the time-out. -/
theorem feedAppendsToAnUnfinishedFrame : Obligations.FeedAppendsToAnUnfinishedFrame := by
  intro s b length hread hroom hfirst hlength
  have hdone : done (s.rxBuf ++ [b]) = false := by rw [done_append hfirst, decide_eq_false hlength]
  rw [exec_feed_of_reading hread hroom, rxByte_unfinished hdone, restartRead_eq]

/-! The last byte of a frame in the receive loop. -/

/-- Outside initialisation a byte restarts no time-out (44_session.md R176). -/
theorem restartRead_of_ready {s : State} (hs : s.sess = .ready) : restartRead s = s := by
  simp [restartRead, hs]

/-- In the receive loop a frame ends no handshake wait (44_session.md R176). -/
theorem endWait_of_ready {s : State} (hs : s.sess = .ready) : endWait s = s := by
  simp [endWait, hs]

@[simp] theorem deliver_sess (r : Decoded) (s : State) : (deliver r s).sess = s.sess := by rw [deliver_eq]

@[simp] theorem deliver_rxBuf (r : Decoded) (s : State) : (deliver r s).rxBuf = s.rxBuf := by rw [deliver_eq]

@[simp] theorem deliver_out (r : Decoded) (s : State) : (deliver r s).out = s.out ++ [r.record] := by rw [deliver_eq]

/-- In the receive loop the byte that completes the frame empties the buffer and delivers the frame's decoding, and nothing
comes after that (40_accumulator.md R90, 44_session.md R173). -/
theorem exec_feed_finished_of_ready {b : Byte} {s : State} (hs : s.sess = .ready) (hrun : s.running = true)
    (hroom : s.rxBuf.length < 256) (hdone : done (s.rxBuf ++ [b]) = true) :
    exec (.feed b) s = .next (deliver (decodeFrame (s.rxBuf ++ [b])) { s with rxBuf := [] }) := by
  rw [exec_feed_of_reading (.inr ⟨hs, hrun⟩) hroom, rxByte_finished hdone, restartRead_of_ready (by exact hs),
    endWait_of_ready (by simpa using hs)]

/-- Settles O12: the delivery of the decoding, for each of the four kinds of result. -/
theorem feedReportsACompletedFrameInReady : Obligations.FeedReportsACompletedFrameInReady := by
  intro s b length hs hrun hroom hfirst hlength
  have hdone : done (s.rxBuf ++ [b]) = true := by rw [done_append hfirst, decide_eq_true hlength]
  have hfeed := exec_feed_finished_of_ready hs hrun hroom hdone
  refine ⟨fun v hr => ?_, fun a q sign mag level low hr => ?_, fun a u on level hr => ?_, fun cause hr => ?_⟩ <;>
    · rw [hfeed, hr]
      rfl

/-! The last byte of a frame in every read phase. -/

/-- The end of a wait leaves the buffer alone (44_session.md R165, R168). -/
theorem endWait_rxBuf (s : State) : (endWait s).rxBuf = s.rxBuf := by
  rcases endWait_cases s with ⟨-, -, he⟩ | ⟨-, -, he⟩ | ⟨-, he⟩ <;> rw [he]
  · rfl
  · rfl

/-- The end of a wait adds the command that follows, or the record that the initialisation is over
(44_session.md R165, R168). -/
theorem endWait_out (s : State) :
    ∃ tail, (endWait s).out = s.out ++ tail ∧ ∀ o ∈ tail, (∃ w, o = .txWrite w) ∨ o = .initDone .ok := by
  rcases endWait_cases s with ⟨-, -, he⟩ | ⟨-, -, he⟩ | ⟨-, he⟩ <;> rw [he]
  · exact ⟨[.txWrite _], rfl, fun o ho => .inl ⟨_, List.mem_singleton.mp ho⟩⟩
  · exact ⟨[.initDone .ok], rfl, fun o ho => .inr (List.mem_singleton.mp ho)⟩
  · exact ⟨[], (List.append_nil _).symm, nofun⟩

/-- The receive step on a frame's last byte: an empty buffer, and the record of the decoding before what the end of a wait
adds (40_accumulator.md R97, 41_decoder.md R112). -/
theorem rxByte_finished_out {b : Byte} {s : State} (hdone : done (s.rxBuf ++ [b]) = true) :
    (rxByte b s).rxBuf = [] ∧
      ∃ tail, (rxByte b s).out = s.out ++ (decodeFrame (s.rxBuf ++ [b])).record :: tail ∧
        ∀ o ∈ tail, (∃ w, o = .txWrite w) ∨ o = .initDone .ok := by
  rw [rxByte_finished hdone]
  obtain ⟨tail, hout, htail⟩ :=
    endWait_out (deliver (decodeFrame (s.rxBuf ++ [b])) (restartRead { s with rxBuf := [] }))
  refine ⟨by simp [endWait_rxBuf, restartRead_eq], tail, ?_, htail⟩
  simpa [restartRead_eq] using hout

/-- Settles O15: the record of the decoding is the first new one (`rxByte_finished_out`), read off for each kind of
result. -/
theorem completedFrameGivesOneRecordAndAnEmptyBuffer :
    Obligations.CompletedFrameGivesOneRecordAndAnEmptyBuffer := by
  intro s b length hread hroom hfirst hlength
  have hdone : done (s.rxBuf ++ [b]) = true := by rw [done_append hfirst, decide_eq_true hlength]
  obtain ⟨hbuf, tail, hout, htail⟩ := rxByte_finished_out hdone
  refine ⟨rxByte b s, tail, exec_feed_of_reading hread hroom, hbuf, fun v hr => ?_,
    fun a q sign mag level low hr => ?_, fun a u on level hr => ?_, fun cause hr => ?_, htail⟩ <;>
    · rw [hout, hr]
      rfl

/-! A frame over its bytes. -/

/-- In the receive loop bytes that complete no frame are appended one after another, and nothing else changes
(40_accumulator.md R90, R92). -/
theorem execAll_feed_unfinished {s : State} (hs : s.sess = .ready) (hrun : s.running = true) {bytes : List Byte}
    (hwf : Memory.wf (s.rxBuf ++ bytes) = true) :
    execAll (bytes.map .feed) s = .next { s with rxBuf := s.rxBuf ++ bytes } := by
  induction bytes generalizing s with
  | nil => simp [execAll]
  | cons b rest ih =>
    rw [List.append_cons] at hwf
    have hgrown : Memory.wf (s.rxBuf ++ [b]) = true := Memory.wf_of_append hwf
    have hroom : s.rxBuf.length < 256 := Memory.wf_length (Memory.wf_of_append hgrown)
    have hfeed : exec (.feed b) s = .next { s with rxBuf := s.rxBuf ++ [b] } := by
      rw [exec_feed_of_reading (.inr ⟨hs, hrun⟩) hroom, rxByte_unfinished (Memory.done_of_wf hgrown),
        restartRead_of_ready (by exact hs)]
    have hrest := ih (s := { s with rxBuf := s.rxBuf ++ [b] }) hs hrun hwf
    simpa [execAll, hfeed] using hrest

/-- In the receive loop, from the empty buffer, the bytes of a frame are decoded together with the last of them
(40_accumulator.md R94, R96). -/
theorem execAll_feed_finished {s : State} (hs : s.sess = .ready) (hrun : s.running = true) (hempty : s.rxBuf = [])
    {frame : Frame} (hdone : done frame = true) :
    execAll (frame.map .feed) s = .next (deliver (decodeFrame frame) { s with rxBuf := [] }) := by
  rcases List.eq_nil_or_concat frame with rfl | ⟨front, last, rfl⟩
  · cases hdone
  · rw [List.concat_eq_append] at hdone ⊢
    have hwf : Memory.wf front = true := Memory.wf_of_done_append hdone
    have hfront : execAll (front.map .feed) s = .next { s with rxBuf := front } := by
      rw [execAll_feed_unfinished hs hrun (by rwa [hempty]), hempty, List.nil_append]
    have hlast := exec_feed_finished_of_ready (s := { s with rxBuf := front }) hs hrun (Memory.wf_length hwf) hdone
    rw [List.map_append, execAll_append, hfront]
    simp [execAll, hlast]

/-- Settles O17: below the declared length the bytes are in form and are only appended; at it they are a frame. -/
theorem streamIsCutAfterTheDeclaredLength : Obligations.StreamIsCutAfterTheDeclaredLength := by
  intro s length payload hs hrun hempty
  constructor
  · intro hshort
    have hwf : Memory.wf (s.rxBuf ++ length :: payload) = true := by simpa [hempty, Memory.wf] using hshort
    rw [execAll_feed_unfinished hs hrun hwf, hempty, List.nil_append]
  · intro hall
    have hdone : done (length :: payload) = true := by rw [done_cons, decide_eq_true hall]
    exact ⟨_, execAll_feed_finished hs hrun hempty hdone, by simp only [deliver_eq]⟩

/-! No step faults. -/

/-- Every timer that is counted is at least 1 (10_state.md R18, 49_cross_family_laws.md R240 (d)). -/
theorem Inv.countersLive {s : State} (h : Inv s) : countersLive s = true := by
  have htx : (s.txState == .idle || decide (1 ≤ s.txTimer)) = true := by
    cases hx : s.txState with
    | idle => rfl
    | delay =>
      obtain ⟨hlive, -⟩ := h.delay hx
      simp [hlive]
  rw [Machine.countersLive, htx, Bool.true_and]
  cases hs : s.sess with
  | initializing =>
    cases hp : s.phase with
    | settle => simpa using (h.settle hs hp).1
    | waitEnable | waitStatus => simpa using (h.wait hs (by simp [hp])).1
  | closed | ready | stopped => rfl

/-- A guarded event whose step is a next state does not fault (10_state.md R22). -/
theorem whenEnabled_next_ne_fault (i : Instr) (s t : State) (r : Fault) : whenEnabled i s (.next t) ≠ .fault r := by
  cases hon : enabled i s
  · rw [whenEnabled_off hon]
    nofun
  · rw [whenEnabled_on hon]
    nofun

/-- Only FEED and TICK fault: at a full buffer and at an exhausted timer (log 12). -/
theorem exec_fault_cases {i : Instr} {s : State} {r : Fault} (h : exec i s = .fault r) :
    (∃ b, i = .feed b ∧ 256 ≤ s.rxBuf.length) ∨ (i = .tick ∧ countersLive s = false) := by
  cases i with
  | feed b =>
    obtain ⟨-, hfull, -⟩ := (feedStopsOnlyOnAFullBuffer s b r).mp h
    exact .inl ⟨b, rfl, hfull⟩
  | tick =>
    cases hc : countersLive s
    · exact .inr ⟨rfl, rfl⟩
    · simp [exec, execTick, hc] at h
  | transportFault =>
    cases hopen : portOpen s <;> simp [exec, execTransportFault, hopen] at h
  | init | run | halt | setswitch => exact absurd h (whenEnabled_next_ne_fault _ _ _ r)
  | reset | decIfrespStatus | decIfrespOther | decTempLacrosse | decTempViking | decLightingAc | decRawLacrosse
  | decUnknown | decShort | encIfcmdReset | encIfcmdStatus | encIfcmdEnableAll | encIfcmdEnableUndecoded | encSwcmd =>
    cases h

/-- A step faults only by the instruction it runs, on the state with its word taken out (log 1). -/
theorem step_fault_cases {s : State} {r : Fault} (h : step s = .fault r) :
    ∃ i ws, exec i { s with offers := ws } = .fault r := by
  simp only [step, fetch] at h
  cases ht : takeReady s s.offers with
  | none => simp [ht] at h
  | some p =>
    obtain ⟨word, left⟩ := p
    cases hd : decode word with
    | error => simp [ht, hd] at h
    | ok i => exact ⟨i, left, by simpa [ht, hd] using h⟩

/-- Settles O49: taking a word out keeps the invariant, under which the buffer has room and every counted timer runs. -/
theorem noStepFaultsUnderTheInvariant : Obligations.NoStepFaultsUnderTheInvariant := by
  intro s r h hstep
  obtain ⟨i, ws, hexec⟩ := step_fault_cases hstep
  have hinv : Inv { s with offers := ws } := h.setOffers ws
  rcases exec_fault_cases hexec with ⟨_, -, hfull⟩ | ⟨-, hdead⟩
  · exact absurd (Memory.wf_length hinv.accumulator) (Nat.not_lt_of_le hfull)
  · rw [hinv.countersLive] at hdead
    cases hdead

end Sys2Proof.Machine
end

section
/-! The packet decoder: the value of each row, the arm DECODE takes for each kind of frame, and which bytes a result
depends on (41_decoder.md). -/

namespace Sys2Proof.Machine

/-! Each DEC row is a direct call that answers its arm's value and changes nothing of the block (41_decoder.md R100). -/

theorem exec_decIfrespStatus (f : Frame) (s : State) :
    exec (.decIfrespStatus f) s = .next { s with reply := some (.decoded (decIfrespStatus f)) } := rfl

theorem exec_decIfrespOther (f : Frame) (s : State) :
    exec (.decIfrespOther f) s = .next { s with reply := some (.decoded (decIfrespOther f)) } := rfl

theorem exec_decTempLacrosse (f : Frame) (s : State) :
    exec (.decTempLacrosse f) s = .next { s with reply := some (.decoded (decTemp f)) } := rfl

theorem exec_decTempViking (f : Frame) (s : State) :
    exec (.decTempViking f) s = .next { s with reply := some (.decoded (decTemp f)) } := rfl

theorem exec_decLightingAc (f : Frame) (s : State) :
    exec (.decLightingAc f) s = .next { s with reply := some (.decoded (decLightingAc f)) } := rfl

theorem exec_decRawLacrosse (f : Frame) (s : State) :
    exec (.decRawLacrosse f) s = .next { s with reply := some (.decoded (decRawLacrosse f)) } := rfl

theorem exec_decUnknown (f : Frame) (s : State) :
    exec (.decUnknown f) s = .next { s with reply := some (.decoded (decUnknown f)) } := rfl

theorem exec_decShort (f : Frame) (need : Nat) (s : State) :
    exec (.decShort f need) s = .next { s with reply := some (.decoded (decShort f need)) } := rfl

/-! The value of each row, below its threshold and from its bytes. -/

theorem decIfrespStatus_of_short {f : Frame} (h : f.length < 7) : decIfrespStatus f = .none (.short f.length 7) :=
  checked_short h _

theorem decIfrespOther_of_short {f : Frame} (h : f.length < 5) : decIfrespOther f = .none (.short f.length 5) :=
  checked_short h _

theorem decTemp_of_short {f : Frame} (h : f.length < 9) : decTemp f = .none (.short f.length 9) := checked_short h _

theorem decLightingAc_of_short {f : Frame} (h : f.length < 12) : decLightingAc f = .none (.short f.length 12) :=
  checked_short h _

theorem decUnknown_of_short {f : Frame} (h : f.length < 3) : decUnknown f = .none (.short f.length 3) :=
  checked_short h _

/-- An offset with a byte lies inside the frame. -/
theorem not_length_lt_of_byte {f : Frame} {off : Nat} {b : Byte} (h : f[off]? = some b) : ¬ f.length < off + 1 :=
  Nat.not_lt.mpr (List.getElem?_eq_some_iff.mp h).1

theorem decIfrespStatus_of_byte {f : Frame} {v : Byte} (hv : f[6]? = some v) : decIfrespStatus f = .status v := by
  simp only [decIfrespStatus, memRead8, hv]
  exact checked_some (not_length_lt_of_byte hv) _

theorem decIfrespOther_of_byte {f : Frame} {c : Byte} (hc : f[4]? = some c) :
    decIfrespOther f = .none (.ifrespOther c) := by
  simp only [decIfrespOther, memRead8, hc]
  exact checked_some (not_length_lt_of_byte hc) _

theorem decUnknown_of_bytes {f : Frame} {t st : Byte} (ht : f[1]? = some t) (hst : f[2]? = some st) :
    decUnknown f = .none (.unknown t st) := by
  simp only [decUnknown, memRead8, ht, hst]
  exact checked_some (not_length_lt_of_byte hst) _

theorem decTemp_of_bytes {f : Frame} {q a1 a0 t1 t0 level : Byte} (hq : f[3]? = some q) (ha1 : f[4]? = some a1)
    (ha0 : f[5]? = some a0) (ht1 : f[6]? = some t1) (ht0 : f[7]? = some t0) (hlevel : f[8]? = some level) :
    decTemp f = .temperature (join16 a1 a0) q (tempSign (join16 t1 t0)) (tempMagnitude (join16 t1 t0))
      (signalLevel level) (batteryLow level) := by
  simp only [decTemp, memRead16, memRead8, hq, ha1, ha0, ht1, ht0, hlevel]
  exact checked_some (not_length_lt_of_byte hlevel) _

/-- The byte at offset 3 is read and dropped, so it does not stand in the value (90_conflicts.md C7). -/
theorem decLightingAc_of_bytes {f : Frame} {a3 a2 a1 a0 u on level : Byte} (ha3 : f[4]? = some a3)
    (ha2 : f[5]? = some a2) (ha1 : f[6]? = some a1) (ha0 : f[7]? = some a0) (hu : f[8]? = some u)
    (hon : f[9]? = some on) (hlevel : f[11]? = some level) :
    decLightingAc f = .deviceState (join32 a3 a2 a1 a0) u (stateOn on) (signalLevel level) := by
  have hlen : ¬ f.length < 12 := not_length_lt_of_byte hlevel
  have hsequence : f[3]? = some f[3] := List.getElem?_eq_getElem (by omega)
  simp only [decLightingAc, memRead32, memRead8, hsequence, ha3, ha2, ha1, ha0, hu, hon, hlevel]
  exact checked_some hlen _

/-! The fields as numbers (30_encoding.md R69 to R71). -/

theorem tempSign_join16 (hi lo : Byte) : tempSign (join16 hi lo) = decide (128 ≤ hi.toNat) := by
  rw [tempSign_eq, join16_toNat, decide_eq_decide]
  have := lo.isLt
  omega

theorem tempMagnitude_join16 (hi lo : Byte) :
    tempMagnitude (join16 hi lo) = BitVec.ofNat 15 (hi.toNat % 128 * 256 + lo.toNat) := by
  apply BitVec.eq_of_toNat_eq
  rw [tempMagnitude_toNat, join16_toNat, BitVec.toNat_ofNat]
  have := lo.isLt
  omega

theorem signalLevel_eq_ofNat (v : Byte) : signalLevel v = BitVec.ofNat 8 (v.toNat / 16) := by
  apply BitVec.eq_of_toNat_eq
  rw [signalLevel_toNat, BitVec.toNat_ofNat]
  have := v.isLt
  omega

theorem stateOn_eq (v : Byte) : stateOn v = decide (v ≠ 0#8) := by
  rw [Bool.eq_iff_iff]
  simp [stateOn]

/-! The arm DECODE takes for each kind of frame (41_decoder.md R101). -/

/-- The dispatch of DECODE by the header checks. -/
theorem decodeFrame_eq_of_header {f : Frame} (h : 3 ≤ f.length) :
    decodeFrame f =
      if f.hasKey 0x01#8 0x00#8 then
        if f.length < 5 then .none (.short f.length 5)
        else if f[4]? = some 0x02#8 then decIfrespStatus f else decIfrespOther f
      else if f.hasKey 0x50#8 0x05#8 then decTemp f
      else if f.hasKey 0x50#8 0x07#8 then decTemp f
      else if f.hasKey 0x11#8 0x00#8 then decLightingAc f
      else if f.hasKey 0x03#8 0x04#8 then decRawLacrosse f
      else decUnknown f := by
  have ht : f[1]? = some f[1] := List.getElem?_eq_getElem (by omega)
  have hst : f[2]? = some f[2] := List.getElem?_eq_getElem (by omega)
  simp only [decodeFrame_header ht hst, hasKey_iff, ht, hst, Option.some.injEq]

theorem decodeFrame_ifresp {f : Frame} (h : f.hasKey 0x01#8 0x00#8 = true) :
    decodeFrame f =
      if f.length < 5 then .none (.short f.length 5)
      else if f[4]? = some 0x02#8 then decIfrespStatus f else decIfrespOther f := by
  rw [decodeFrame_eq_of_header (three_le_length_of_hasKey h), if_pos h]

theorem decodeFrame_status {f : Frame} (h : f.hasKey 0x01#8 0x00#8 = true) (hcommand : f[4]? = some 0x02#8) :
    decodeFrame f = decIfrespStatus f := by
  rw [decodeFrame_ifresp h, if_neg (not_length_lt_of_byte hcommand), if_pos hcommand]

theorem decodeFrame_other {f : Frame} {c : Byte} (h : f.hasKey 0x01#8 0x00#8 = true) (hc : f[4]? = some c)
    (hne : c ≠ 0x02#8) : decodeFrame f = .none (.ifrespOther c) := by
  rw [decodeFrame_ifresp h, if_neg (not_length_lt_of_byte hc), if_neg (by simpa [hc] using hne),
    decIfrespOther_of_byte hc]

theorem decodeFrame_temp {f : Frame} (h : f.hasKey 0x50#8 0x05#8 = true ∨ f.hasKey 0x50#8 0x07#8 = true) :
    decodeFrame f = decTemp f := by
  rcases h with h | h <;> simp [decodeFrame_eq_of_header (three_le_length_of_hasKey h), hasKey_iff_of_hasKey h]

theorem decodeFrame_lighting {f : Frame} (h : f.hasKey 0x11#8 0x00#8 = true) : decodeFrame f = decLightingAc f := by
  simp [decodeFrame_eq_of_header (three_le_length_of_hasKey h), hasKey_iff_of_hasKey h]

theorem decodeFrame_raw {f : Frame} (h : f.hasKey 0x03#8 0x04#8 = true) : decodeFrame f = decRawLacrosse f := by
  simp [decodeFrame_eq_of_header (three_le_length_of_hasKey h), hasKey_iff_of_hasKey h]

theorem decodeFrame_unknown {f : Frame} (hlen : 3 ≤ f.length) (h : f.recognised = false) :
    decodeFrame f = decUnknown f := by
  obtain ⟨hifresp, hlacrosse, hviking, hlighting, hraw⟩ := recognised_eq_false_iff.mp h
  simp [decodeFrame_eq_of_header hlen, hifresp, hlacrosse, hviking, hlighting, hraw]

/-! The decoder's answer for a frame word, and its row's value against DECODE. -/

/-- A byte sequence that is not too long, with a header byte at offset 1, is a frame, answered by its row. -/
theorem decode_frame_of_byte {f : Frame} {t : Byte} (hcap : f.length ≤ 256) (ht : f[1]? = some t) :
    decode (.frame f) = .ok (selectRow f) := by
  have hlen := not_length_lt_of_byte ht
  exact decode_frame_of_sized (sized_iff.mpr ⟨by omega, hcap⟩)

/-- The header decides whether a frame is recognised (30_encoding.md R76). -/
theorem recognised_eq_false_iff_of_header {f : Frame} {t st : Byte} (ht : f[1]? = some t) (hst : f[2]? = some st) :
    f.recognised = false ↔
      ¬ (t = 0x01#8 ∧ st = 0x00#8) ∧ ¬ (t = 0x50#8 ∧ st = 0x05#8) ∧ ¬ (t = 0x50#8 ∧ st = 0x07#8) ∧
        ¬ (t = 0x11#8 ∧ st = 0x00#8) ∧ ¬ (t = 0x03#8 ∧ st = 0x04#8) := by
  rw [recognised_eq_false_iff]
  simp only [← Bool.not_eq_true, hasKey_iff_of_hasKey (hasKey_iff.mpr ⟨ht, hst⟩)]

/-- A frame of no recognised pair is answered by the default row (41_decoder.md R101, R109). -/
theorem decode_frame_unknown {f : Frame} (hlen : 3 ≤ f.length) (hcap : f.length ≤ 256) (h : f.recognised = false) :
    decode (.frame f) = .ok (.decUnknown f) := by
  rw [decode_frame_of_sized (sized_iff.mpr ⟨by omega, hcap⟩), selectRow_unknown hlen h]

/-- The row the dispatch selects answers DECODE's result: kind by kind, and threshold by threshold within a kind
(41_decoder.md R100, R101, R110). -/
theorem exec_selectRow (f : Frame) (s : State) :
    exec (selectRow f) s = .next { s with reply := some (.decoded (decodeFrame f)) } := by
  rcases frame_header_cases f with hlen | hkey | hkey | hkey | hkey | hkey | ⟨hlen, hrec⟩
  · rw [selectRow_noHeader hlen, decodeFrame_headless hlen, exec_decShort, decShort]
  · rw [selectRow_ifresp hkey, decodeFrame_ifresp hkey]
    split_ifs with hfive hcommand hseven
    · rw [exec_decShort, decShort]
    · rw [exec_decShort, decShort, decIfrespStatus_of_short hseven]
    · rw [exec_decIfrespStatus]
    · rw [exec_decIfrespOther]
  · rw [selectRow_lacrosse hkey, decodeFrame_temp (.inl hkey)]
    split_ifs with hshort
    · rw [exec_decShort, decShort, decTemp_of_short hshort]
    · rw [exec_decTempLacrosse]
  · rw [selectRow_viking hkey, decodeFrame_temp (.inr hkey)]
    split_ifs with hshort
    · rw [exec_decShort, decShort, decTemp_of_short hshort]
    · rw [exec_decTempViking]
  · rw [selectRow_lighting hkey, decodeFrame_lighting hkey]
    split_ifs with hshort
    · rw [exec_decShort, decShort, decLightingAc_of_short hshort]
    · rw [exec_decLightingAc]
  · rw [selectRow_raw hkey, decodeFrame_raw hkey, exec_decRawLacrosse]
  · rw [selectRow_unknown hlen hrec, decodeFrame_unknown hlen hrec, exec_decUnknown]

/-! The rows. -/

/-- Settles O19: the row reads offset 6, and the command code 0x02 selects it from 7 bytes on. -/
theorem statusResponseRowGivesTheRevision : Obligations.StatusResponseRowGivesTheRevision := by
  refine ⟨fun f s v _ hv => ?_, fun f s hshort => ?_, fun f hcap ht hst hcommand => ?_⟩
  · rw [exec_decIfrespStatus, decIfrespStatus_of_byte hv]
  · rw [exec_decIfrespStatus, decIfrespStatus_of_short hshort]
  · have hkey : f.hasKey 0x01#8 0x00#8 = true := hasKey_iff.mpr ⟨ht, hst⟩
    refine ⟨?_, decodeFrame_status hkey hcommand⟩
    rw [decode_frame_of_byte hcap ht, selectRow_ifresp hkey, if_neg (not_length_lt_of_byte hcommand),
      if_pos hcommand]

/-- Settles O20: the row reads offset 4, and any command code but 0x02 selects it. -/
theorem otherResponseRowGivesTheCommand : Obligations.OtherResponseRowGivesTheCommand := by
  refine ⟨fun f s c _ hc => ?_, fun f s hshort => ?_, fun f c hcap ht hst hc hne => ?_⟩
  · rw [exec_decIfrespOther, decIfrespOther_of_byte hc]
  · rw [exec_decIfrespOther, decIfrespOther_of_short hshort]
  · have hkey : f.hasKey 0x01#8 0x00#8 = true := hasKey_iff.mpr ⟨ht, hst⟩
    refine ⟨?_, decodeFrame_other hkey hc hne⟩
    rw [decode_frame_of_byte hcap ht, selectRow_ifresp hkey, if_neg (not_length_lt_of_byte hc),
      if_neg (by simpa [hc] using hne)]

/-- Settles O21: the arm the two rows share, its fields as numbers, and the two subtypes that select a row. -/
theorem temperatureRowsExtractTheirFields : Obligations.TemperatureRowsExtractTheirFields := by
  refine ⟨fun f s q a1 a0 t1 t0 level _ hq ha1 ha0 ht1 ht0 hlevel => ?_, fun f s hshort => ?_,
    fun f hcap ht => ⟨fun hst => ?_, fun hst => ?_, fun st hst hlacrosse hviking => ?_⟩⟩
  · rw [exec_decTempLacrosse, exec_decTempViking, decTemp_of_bytes hq ha1 ha0 ht1 ht0 hlevel, join16_eq_or a1 a0,
      tempSign_join16, tempMagnitude_join16, signalLevel_eq_ofNat, batteryLow_eq]
    exact ⟨rfl, rfl⟩
  · rw [exec_decTempLacrosse, exec_decTempViking, decTemp_of_short hshort]
    exact ⟨rfl, rfl⟩
  · rw [decode_frame_of_byte hcap ht, selectRow_lacrosse (hasKey_iff.mpr ⟨ht, hst⟩)]
  · rw [decode_frame_of_byte hcap ht, selectRow_viking (hasKey_iff.mpr ⟨ht, hst⟩)]
  · have hrec : f.recognised = false := (recognised_eq_false_iff_of_header ht hst).mpr (by simp [hlacrosse, hviking])
    exact decode_frame_unknown (Nat.not_lt.mp (not_length_lt_of_byte hst)) hcap hrec

/-- Settles O22: the row's fields as shifts and numbers, and the one subtype that selects it. -/
theorem lightingRowExtractsItsFields : Obligations.LightingRowExtractsItsFields := by
  refine ⟨fun f s a3 a2 a1 a0 u on level _ ha3 ha2 ha1 ha0 hu hon hlevel => ?_, fun f s hshort => ?_,
    fun f hcap ht => ⟨fun hst => ?_, fun st hst hne => ?_⟩⟩
  · rw [exec_decLightingAc, decLightingAc_of_bytes ha3 ha2 ha1 ha0 hu hon hlevel, join32_eq_or, stateOn_eq,
      signalLevel_eq_ofNat]
  · rw [exec_decLightingAc, decLightingAc_of_short hshort]
  · rw [decode_frame_of_byte hcap ht, selectRow_lighting (hasKey_iff.mpr ⟨ht, hst⟩)]
  · have hrec : f.recognised = false := (recognised_eq_false_iff_of_header ht hst).mpr (by simp [hne])
    exact decode_frame_unknown (Nat.not_lt.mp (not_length_lt_of_byte hst)) hcap hrec

/-- Settles O23: the two rows read no more than the frame and its header; a type of no row selects the default one. -/
theorem rawAndUnknownRowsReportWithoutAnEvent : Obligations.RawAndUnknownRowsReportWithoutAnEvent := by
  refine ⟨fun f s => ?_, fun f s t st ht hst => ?_, fun f s hshort => ?_,
    fun f t st hcap ht hst => ⟨?_, fun ⟨hifresp, htemp, hlighting, hraw⟩ => ?_⟩⟩
  · rw [exec_decRawLacrosse, decRawLacrosse]
  · rw [exec_decUnknown, decUnknown_of_bytes ht hst]
  · rw [exec_decUnknown, decUnknown_of_short hshort]
  · rintro ⟨rfl, rfl⟩
    rw [decode_frame_of_byte hcap ht, selectRow_raw (hasKey_iff.mpr ⟨ht, hst⟩)]
  · have hrec : f.recognised = false :=
      (recognised_eq_false_iff_of_header ht hst).mpr (by simp [hifresp, htemp, hlighting, hraw])
    exact decode_frame_unknown (Nat.not_lt.mp (not_length_lt_of_byte hst)) hcap hrec

/-- Settles O24: the row's value, then the header's threshold and the interface response's. -/
theorem shortRowReportsSizeAndThreshold : Obligations.ShortRowReportsSizeAndThreshold := by
  refine ⟨fun f need s => ?_, fun f hpos hshort => ⟨?_, decodeFrame_headless hshort⟩, fun f ht hst hshort => ?_⟩
  · rw [exec_decShort, decShort]
  · rw [decode_frame_of_sized (sized_iff.mpr ⟨hpos, by omega⟩), selectRow_noHeader hshort]
  · have hkey : f.hasKey 0x01#8 0x00#8 = true := hasKey_iff.mpr ⟨ht, hst⟩
    rw [decode_frame_of_byte (by omega) ht, selectRow_ifresp hkey, decodeFrame_ifresp hkey, if_pos hshort,
      if_pos hshort]
    exact ⟨rfl, rfl⟩

/-- Settles O25, by the row of the frame. -/
theorem selectedRowReturnsWhatDecodeReturns : Obligations.SelectedRowReturnsWhatDecodeReturns := fun f s hpos hcap =>
  ⟨selectRow f, decode_frame_of_sized (sized_iff.mpr ⟨hpos, hcap⟩), exec_selectRow f s⟩

/-- Settles O27, sign by sign. -/
theorem temperatureIsSignedTenths : Obligations.TemperatureIsSignedTenths := by
  intro sign mag
  rw [temperatureCelsius, Rat.mkRat_eq_div]
  cases sign <;> simp [temperatureTenths]

/-! Which bytes a result depends on (41_decoder.md R111). -/

/-- `g` has every byte of `f` in its place, the length byte apart. -/
def ContinuedBy (f g : Frame) : Prop := ∀ {off : Nat} {b : Byte}, f[off + 1]? = some b → g[off + 1]? = some b

/-- Another length byte and more bytes behind the last continue a frame. -/
theorem continuedBy_append (l l' : Byte) (body tail : List Byte) : ContinuedBy (l :: body) (l' :: (body ++ tail)) :=
  fun {off b} h => by
    rw [List.getElem?_cons_succ] at h ⊢
    rw [List.getElem?_append_left (List.getElem?_eq_some_iff.mp h).1, h]

section Continued

variable {f g : Frame} (hg : ContinuedBy f g)
include hg

/-- A continuation keeps the header. -/
theorem ContinuedBy.hasKey_eq (h : 3 ≤ f.length) (t st : Byte) : g.hasKey t st = f.hasKey t st := by
  have ht : f[1]? = some f[1] := List.getElem?_eq_getElem (by omega)
  have hst : f[2]? = some f[2] := List.getElem?_eq_getElem (by omega)
  rw [Frame.hasKey, Frame.hasKey, hg ht, hg hst, ht, hst]

theorem ContinuedBy.hasKey {t st : Byte} (h : f.hasKey t st = true) : g.hasKey t st = true := by
  rw [hg.hasKey_eq (three_le_length_of_hasKey h), h]

theorem ContinuedBy.recognised_eq (h : 3 ≤ f.length) : g.recognised = f.recognised := by
  simp only [Frame.recognised, hg.hasKey_eq h]

theorem ContinuedBy.decIfrespStatus_eq (h : 7 ≤ f.length) : decIfrespStatus f = decIfrespStatus g := by
  have hv : f[6]? = some f[6] := List.getElem?_eq_getElem h
  rw [decIfrespStatus_of_byte hv, decIfrespStatus_of_byte (hg hv)]

theorem ContinuedBy.decTemp_eq (h : 9 ≤ f.length) : decTemp f = decTemp g := by
  have hq : f[3]? = some f[3] := List.getElem?_eq_getElem (by omega)
  have ha1 : f[4]? = some f[4] := List.getElem?_eq_getElem (by omega)
  have ha0 : f[5]? = some f[5] := List.getElem?_eq_getElem (by omega)
  have ht1 : f[6]? = some f[6] := List.getElem?_eq_getElem (by omega)
  have ht0 : f[7]? = some f[7] := List.getElem?_eq_getElem (by omega)
  have hlevel : f[8]? = some f[8] := List.getElem?_eq_getElem (by omega)
  rw [decTemp_of_bytes hq ha1 ha0 ht1 ht0 hlevel,
    decTemp_of_bytes (hg hq) (hg ha1) (hg ha0) (hg ht1) (hg ht0) (hg hlevel)]

theorem ContinuedBy.decLightingAc_eq (h : 12 ≤ f.length) : decLightingAc f = decLightingAc g := by
  have ha3 : f[4]? = some f[4] := List.getElem?_eq_getElem (by omega)
  have ha2 : f[5]? = some f[5] := List.getElem?_eq_getElem (by omega)
  have ha1 : f[6]? = some f[6] := List.getElem?_eq_getElem (by omega)
  have ha0 : f[7]? = some f[7] := List.getElem?_eq_getElem (by omega)
  have hu : f[8]? = some f[8] := List.getElem?_eq_getElem (by omega)
  have hon : f[9]? = some f[9] := List.getElem?_eq_getElem (by omega)
  have hlevel : f[11]? = some f[11] := List.getElem?_eq_getElem (by omega)
  rw [decLightingAc_of_bytes ha3 ha2 ha1 ha0 hu hon hlevel,
    decLightingAc_of_bytes (hg ha3) (hg ha2) (hg ha1) (hg ha0) (hg hu) (hg hon) (hg hlevel)]

/-- The default row's result on a frame and on its continuation: both are the header's. -/
theorem ContinuedBy.decodeFrame_unknown_eq (hlen : 3 ≤ f.length) (h : f.recognised = false) :
    decodeFrame f = decodeFrame g := by
  have ht : f[1]? = some f[1] := List.getElem?_eq_getElem (by omega)
  have hst : f[2]? = some f[2] := List.getElem?_eq_getElem (by omega)
  have hlen' : 3 ≤ g.length := Nat.not_lt.mp (not_length_lt_of_byte (hg hst))
  have h' : g.recognised = false := by rw [hg.recognised_eq hlen, h]
  rw [decodeFrame_unknown hlen h, decodeFrame_unknown hlen' h', decUnknown_of_bytes ht hst,
    decUnknown_of_bytes (hg ht) (hg hst)]

end Continued

/-- A frame of any size and its copy with another length byte agree in their size and in every read an arm makes, so all
arms but the raw row's give the same value. -/
theorem decodeFrame_lengthByte (l l' : Byte) {body : List Byte}
    (hraw : ¬ (body[0]? = some 0x03#8 ∧ body[1]? = some 0x04#8)) :
    decodeFrame (l :: body) = decodeFrame (l' :: body) := by
  match body with
  | [] | [_] => rfl
  | t :: st :: rest =>
    have hnotRaw : ¬ (t = 0x03#8 ∧ st = 0x04#8) := by simpa using hraw
    rw [decodeFrame_header (t := t) (s := st) rfl rfl, decodeFrame_header (t := t) (s := st) rfl rfl]
    simp only [if_neg hnotRaw]
    rfl

/-- Settles O26: the length byte by the dispatch, and each row by the bytes its value is made of. -/
theorem decodeIgnoresTheLengthByteAndTrailingBytes : Obligations.DecodeIgnoresTheLengthByteAndTrailingBytes := by
  intro l l' body tail
  have hg : ContinuedBy (l :: body) (l' :: (body ++ tail)) := continuedBy_append l l' body tail
  have hkey : ∀ {t st : Byte}, body[0]? = some t → body[1]? = some st → Frame.hasKey (l :: body) t st = true :=
    fun ht hst => hasKey_iff.mpr ⟨ht, hst⟩
  refine ⟨decodeFrame_lengthByte l l', fun ht hst hcommand hlen => ?_, fun c ht hst hc hne => ?_, fun ht hst hlen => ?_,
    fun ht hst hlen => ?_, fun hrec hlen => hg.decodeFrame_unknown_eq hlen hrec⟩
  · have hresponse := hkey ht hst
    have hcommand' : (l :: body)[4]? = some 0x02#8 := hcommand
    rw [decodeFrame_status hresponse hcommand', decodeFrame_status (hg.hasKey hresponse) (hg hcommand'),
      hg.decIfrespStatus_eq hlen]
  · have hresponse := hkey ht hst
    have hc' : (l :: body)[4]? = some c := hc
    rw [decodeFrame_other hresponse hc' hne, decodeFrame_other (hg.hasKey hresponse) (hg hc') hne]
  · have htemp := hst.imp (hkey ht) (hkey ht)
    rw [decodeFrame_temp htemp, decodeFrame_temp (htemp.imp hg.hasKey hg.hasKey), hg.decTemp_eq hlen]
  · have hlighting := hkey ht hst
    rw [decodeFrame_lighting hlighting, decodeFrame_lighting (hg.hasKey hlighting), hg.decLightingAc_eq hlen]

end Sys2Proof.Machine
end

section
/-! The packet encoder: the value of each row, a switch command against the decoder and the accumulator, the requests it
refuses, and the frames the block writes (42_encoder.md). -/

namespace Sys2Proof.Machine

/-! Each ENC row is a direct call that answers its frame and changes nothing of the block (10_state.md R23). -/

theorem exec_encIfcmdReset (q : Byte) (s : State) :
    exec (.encIfcmdReset q) s = .next { s with reply := some (.frame (encIfcmd q .reset)) } := rfl

theorem exec_encIfcmdStatus (q : Byte) (s : State) :
    exec (.encIfcmdStatus q) s = .next { s with reply := some (.frame (encIfcmd q .status)) } := rfl

theorem exec_encIfcmdEnableAll (q : Byte) (s : State) :
    exec (.encIfcmdEnableAll q) s = .next { s with reply := some (.frame (encIfcmd q .enableAll)) } := rfl

theorem exec_encIfcmdEnableUndecoded (q : Byte) (s : State) :
    exec (.encIfcmdEnableUndecoded q) s = .next { s with reply := some (.frame (encIfcmd q .enableUndecoded)) } := rfl

theorem exec_encSwcmd (a : BitVec 32) (u : Byte) (on : Bool) (q : Byte) (s : State) :
    exec (.encSwcmd a u on q) s = .next { s with reply := some (.frame (encSwcmd a u on q)) } := rfl

/-- Settles O28: each row's frame, with the code of its command. -/
theorem interfaceCommandRowsBuildFiveBytes : Obligations.InterfaceCommandRowsBuildFiveBytes := by
  intro q s
  rw [exec_encIfcmdReset, exec_encIfcmdStatus, exec_encIfcmdEnableAll, exec_encIfcmdEnableUndecoded]
  simp only [encIfcmd_eq, IfCommand.code, and_self]

/-- A byte of a 32-bit value as a quotient (20_memory.md R41). -/
theorem byteOf32_eq_ofNat (v : BitVec 32) (j : Nat) :
    byteOf32 v j = BitVec.ofNat 8 (v.toNat / 2 ^ (8 * (3 - j))) := by
  apply BitVec.eq_of_toNat_eq
  rw [byteOf32_toNat, BitVec.toNat_ofNat]

/-- Settles O29: the row's frame, its address bytes as quotients. -/
theorem switchCommandRowBuildsThirteenBytes : Obligations.SwitchCommandRowBuildsThirteenBytes := by
  intro a u on q s
  rw [exec_encSwcmd, encSwcmd_eq]
  simp only [byteOf32_eq_ofNat, stateCode, Nat.sub_zero, Nat.reduceSub, Nat.reduceMul, pow_zero, Nat.div_one]

/-! A switch command against the decoder (42_encoder.md R138). -/

/-- The decoder reads the encoder's state byte back (30_encoding.md R71). -/
@[simp] theorem stateOn_stateCode (on : Bool) : stateOn (stateCode on) = on := by
  cases on <;> rfl

/-- A switch command has the header of a lighting frame (30_encoding.md R67). -/
theorem encSwcmd_hasKey (a : BitVec 32) (u : Byte) (on : Bool) (q : Byte) :
    (encSwcmd a u on q).hasKey 0x11#8 0x00#8 = true := rfl

/-- Settles O30: the lighting row reads the address, the unit and the state where the encoder put them, and the level
from a zero byte. -/
theorem switchCommandDecodesToItsOperands : Obligations.SwitchCommandDecodesToItsOperands := by
  intro a u on q
  have hbytes : decLightingAc (encSwcmd a u on q) =
      .deviceState (join32 (byteOf32 a 0) (byteOf32 a 1) (byteOf32 a 2) (byteOf32 a 3)) u (stateOn (stateCode on))
        (signalLevel 0x00#8) :=
    decLightingAc_of_bytes rfl rfl rfl rfl rfl rfl rfl
  have hlevel : signalLevel 0x00#8 = 0#8 := rfl
  rw [decodeFrame_lighting (encSwcmd_hasKey a u on q), hbytes, join32_byteOf32, stateOn_stateCode, hlevel]

/-- Settles O31: the thirteen bytes are one frame (`execAll_feed_finished`), and its decoding is the operands (O30). -/
theorem switchCommandFedBackIsReportedOnce : Obligations.SwitchCommandFedBackIsReportedOnce := by
  intro a u on q s hs hrun hempty
  have hdone : done (encSwcmd a u on q) = true := rfl
  have hsame : { s with rxBuf := [] } = s := by rw [← hempty]
  rw [execAll_feed_finished hs hrun hempty hdone, switchCommandDecodesToItsOperands, hsame]
  rfl

/-! Requests that are refused (42_encoder.md R137; log 21). -/

/-- No instruction is refused: a refusal is the decoder's (log 21). -/
theorem exec_ne_refused (i : Instr) (s : State) (r : Refusal) : exec i s ≠ .refused r := by
  obtain ⟨-, -, hnever⟩ := deadCellsAreNeverRead i s
  exact hnever r

/-- A first offered word that is no instruction is refused (log 21). -/
theorem step_of_undecodable_head {s : State} {w : OfferWord} {rest : List OfferWord} {e : Reject}
    (hoffers : s.offers = w :: rest) (hdecode : decode w = .error e) : step s = .refused (.undecodable e) := by
  have hready : ready w s = true := by simp [ready, hdecode]
  simp [step, fetch, hoffers, takeReady, hready, hdecode]

/-- Settles O50: a step runs the instruction of the word it took, which is not refused, or refuses that word. -/
theorem stepRefusesOnlyUndecodableWords : Obligations.StepRefusesOnlyUndecodableWords := by
  intro s r h
  simp only [step, fetch] at h
  cases htake : takeReady s s.offers with
  | none => simp [htake] at h
  | some p =>
    obtain ⟨w, left⟩ := p
    obtain ⟨before, after, hoffers, -⟩ := takeReady_some htake
    simp only [htake, Option.map_some] at h
    cases hdecode : decode w with
    | ok i =>
      rw [hdecode] at h
      exact absurd h (exec_ne_refused i _ r)
    | error e =>
      rw [hdecode] at h
      exact ⟨w, e, by simp [hoffers], hdecode, (Host.Outcome.refused.inj h).symm⟩

/-- A command code the source does not define has no row (30_encoding.md R76). -/
theorem ifcmdRow_undefined {q c : Byte} (hreset : c ≠ 0x00#8) (hstatus : c ≠ 0x02#8) (hall : c ≠ 0x04#8)
    (hundecoded : c ≠ 0x05#8) : ifcmdRow q c = .error .undefinedCommand := by
  rw [ifcmdRow, if_neg hreset, if_neg hstatus, if_neg hall, if_neg hundecoded]

/-- Settles O5: the request has the form of an interface command, and its code has no row. -/
theorem undefinedInterfaceCommandsAreRefused : Obligations.UndefinedInterfaceCommandsAreRefused := by
  intro s rest q c hreset hstatus hall hundecoded hoffers
  have hdecode : decode (.outbound [0x04#8, 0x00#8, 0x00#8, q, c]) = ifcmdRow q c := rfl
  rw [ifcmdRow_undefined hreset hstatus hall hundecoded] at hdecode
  exact step_of_undecodable_head hoffers hdecode

/-! The frames the block writes (42_encoder.md R136, 43_retransmitter.md R140). -/

theorem outboundFrame_encIfcmd (q : Byte) (c : IfCommand) : OutboundFrame (encIfcmd q c) := .inl ⟨q, c, rfl⟩

theorem outboundFrame_encSwcmd (a : BitVec 32) (u : Byte) (on : Bool) (q : Byte) :
    OutboundFrame (encSwcmd a u on q) := .inr ⟨a, u, on, q, rfl⟩

/-- Every write among the outputs is one whole frame of the two outbound formats (43_retransmitter.md R140). -/
def WholeFrames (out : List Output) : Prop := ∀ w ∈ txWrites out, OutboundFrame w

theorem wholeFrames_of_no_write {out : List Output} (h : txWrites out = []) : WholeFrames out := by
  simp [WholeFrames, h]

theorem wholeFrames_txWrite {w : Frame} (h : OutboundFrame w) : WholeFrames [.txWrite w] := by
  simpa [WholeFrames] using h

theorem WholeFrames.append {out more : List Output} (h : WholeFrames out) (hmore : WholeFrames more) :
    WholeFrames (out ++ more) := by
  intro w hw
  rw [txWrites_append, List.mem_append] at hw
  exact hw.elim (h w) (hmore w)

section Written

variable {s : State} (h : WholeFrames s.out)
include h

/-- ISSUE writes a whole interface command (44_session.md R174). -/
theorem WholeFrames.issue (c : IfCommand) : WholeFrames (issue c s).out :=
  h.append (wholeFrames_txWrite (outboundFrame_encIfcmd _ c))

/-- COMPLETE writes nothing (44_session.md R168). -/
theorem WholeFrames.complete : WholeFrames (complete s).out :=
  h.append (wholeFrames_of_no_write rfl)

/-- The end of a wait writes STATUS or nothing (44_session.md R165, R168). -/
theorem WholeFrames.endWait : WholeFrames (endWait s).out := by
  rcases endWait_cases s with ⟨-, -, he⟩ | ⟨-, -, he⟩ | ⟨-, he⟩ <;> rw [he]
  · exact h.issue .status
  · exact h.complete
  · exact h

/-- A received byte writes no more than the end of a wait does (44_session.md R176). -/
theorem WholeFrames.rxByte (b : Byte) : WholeFrames (rxByte b s).out := by
  cases hdone : done (s.rxBuf ++ [b])
  · rw [rxByte_unfinished hdone, restartRead_eq]
    exact h
  · rw [rxByte_finished hdone, restartRead_eq]
    refine WholeFrames.endWait ?_
    rw [deliver_out]
    exact h.append (wholeFrames_of_no_write (txWrites_record _))

/-- TICK.TX writes the transmit buffer, which during a burst is a switch command (43_retransmitter.md R142). -/
theorem WholeFrames.tickTx (hbuf : s.txState = .delay → OutboundFrame s.txBuf) : WholeFrames (tickTx s).out := by
  rcases tickTx_cases s with ⟨-, he⟩ | ⟨-, -, he⟩ | ⟨hdelay, -, -, he⟩ | ⟨-, -, -, he⟩ <;> rw [he]
  · exact h
  · exact h
  · exact h.append (wholeFrames_txWrite (hbuf hdelay))
  · exact h.append (wholeFrames_of_no_write rfl)

/-- The session lines of TICK write the handshake's next command or nothing (44_session.md R175). -/
theorem WholeFrames.tickSession : WholeFrames (tickSession s).out := by
  rcases tickSession_cases s with ⟨-, he⟩ | ⟨-, -, -, he⟩ | ⟨-, -, -, he⟩ | ⟨-, -, -, he⟩ | ⟨-, -, -, he⟩ |
    ⟨-, -, -, he⟩ <;> rw [he]
  · exact h
  · exact h
  · exact h.issue .enableAll
  · exact h
  · exact h.issue .status
  · exact h.complete

/-- The fault entry writes nothing (60_exceptions.md R196). -/
theorem WholeFrames.faultEntry : WholeFrames (faultEntry s).out := by
  rw [faultEntry_eq]
  refine ((h.append ?_).append ?_).append ?_ <;> exact wholeFrames_of_no_write (by split <;> rfl)

end Written

/-- During a burst the transmit buffer is a whole switch command (10_state.md R19, R28 I4). -/
theorem Inv.txBuf_outbound {s : State} (h : Inv s) (hdelay : s.txState = .delay) : OutboundFrame s.txBuf := by
  obtain ⟨-, -, -, hframe⟩ := h.delay hdelay
  exact .inr hframe

/-- Every instruction writes whole frames only: one rule for each thing an instruction can do (`exec_next_cases`). -/
theorem WholeFrames.exec {i : Instr} {s t : State} (h : WholeFrames s.out) (hinv : Inv s) (ht : exec i s = .next t) :
    WholeFrames t.out := by
  rcases exec_next_cases ht with rfl | ⟨r, rfl⟩ | ⟨b, -, -, -, rfl⟩ | ⟨-, -, rfl⟩ | ⟨-, -, -, rfl⟩ | ⟨-, -, rfl⟩ |
    ⟨a, u, q, on, -, -, -, rfl⟩ | ⟨-, -, rfl⟩ | ⟨-, -, rfl⟩ | ⟨-, rfl⟩
  · exact h
  · exact h
  · exact h.rxByte b
  · exact h.issue .reset
  · exact h
  · exact h.append (wholeFrames_of_no_write (by split <;> rfl))
  · exact h.append (wholeFrames_txWrite (outboundFrame_encSwcmd a u on q))
  · exact (h.tickTx hinv.txBuf_outbound).tickSession
  · exact h.faultEntry
  · exact wholeFrames_of_no_write rfl

/-- Settles O56: a step leaves the state as it is, or takes an offered word out and executes its instruction, which
writes whole frames only; and both formats count their bytes. -/
theorem everyWriteIsOneWholeFrame : Obligations.EveryWriteIsOneWholeFrame := by
  refine ⟨fun s t hinv h hstep => ?_, fun w hw => ?_⟩
  · rcases step_next_cases hstep with ⟨rfl, -⟩ | ⟨before, _, after, i, -, -, -, -, hexec⟩
    · exact h
    · exact WholeFrames.exec (s := { s with offers := before ++ after }) h (hinv.setOffers (before ++ after)) hexec
  · rcases hw with ⟨q, c, rfl⟩ | ⟨a, u, on, q, rfl⟩
    · obtain ⟨hlength, hfirst⟩ := encIfcmd_sized q c
      exact ⟨.inl hlength, by rw [hfirst, hlength]⟩
    · obtain ⟨hlength, hfirst⟩ := encSwcmd_sized a u on q
      exact ⟨.inr hlength, by rw [hfirst, hlength]⟩

end Sys2Proof.Machine
end

section
/-! The retransmitter: when a switch command has a step, what a tick does to a burst, and a whole burst over its ticks
(43_retransmitter.md). -/

namespace Sys2Proof.Machine

/-! SETSWITCH (43_retransmitter.md R141, R148). -/

/-- SETSWITCH by its guard (43_retransmitter.md R141). -/
theorem exec_setswitch (a : BitVec 32) (u q : Byte) (on : Bool) (s : State) :
    exec (.setswitch a u q on) s =
      whenEnabled (.setswitch a u q on) s (.next (startBurst (encSwcmd a u on q) s)) := rfl

/-- When a switch command has a step (10_state.md R22). -/
theorem enabled_setswitch_iff {a : BitVec 32} {u q : Byte} {on : Bool} {s : State} :
    enabled (.setswitch a u q on) s = true ↔ s.sess = .ready ∧ s.txState = .idle := by
  simp [enabled]

/-- SETSWITCH where it has a step (43_retransmitter.md R141). -/
theorem exec_setswitch_of_idle {s : State} (hs : s.sess = .ready) (hidle : s.txState = .idle) (a : BitVec 32)
    (u q : Byte) (on : Bool) : exec (.setswitch a u q on) s = .next (startBurst (encSwcmd a u on q) s) := by
  rw [exec_setswitch, whenEnabled_on (enabled_setswitch_iff.mpr ⟨hs, hidle⟩)]

/-- Settles O36: in Ready with no burst the command is enabled, and its effect is `startBurst`. -/
theorem setSwitchWritesOnceAndStartsTheDelay : Obligations.SetSwitchWritesOnceAndStartsTheDelay := by
  intro a u q on s hs hidle
  rw [exec_setswitch_of_idle hs hidle, startBurst_eq]

/-- A stalled word is offered as often after a step as before it (43_retransmitter.md R148). -/
theorem count_offers_of_stalled {s t : State} {w : OfferWord} {i : Instr} (hdecode : decode w = .ok i)
    (hoff : enabled i s = false) (hstep : step s = .next t) : t.offers.count w = s.offers.count w := by
  rcases stepKeepsEveryStalledOffer s t hstep with hsame | ⟨before, taken, after, hs, ht, -, j, hj, hon⟩
  · rw [hsame]
  · have hne : taken ≠ w := by
      rintro rfl
      obtain rfl : i = j := Except.ok.inj (hdecode.symm.trans hj)
      rw [hoff] at hon
      cases hon
    rw [hs, ht, List.count_append, List.count_append, List.count_cons_of_ne hne]

/-- Settles O37: outside Ready or during a burst the command is not enabled, so it has no step, and a step of the machine
passes over its word. -/
theorem switchCommandWaitsForTheBurst : Obligations.SwitchCommandWaitsForTheBurst := by
  intro a u q on s h
  have hoff : enabled (.setswitch a u q on) s = false := by
    rw [Bool.eq_false_iff, Ne, enabled_setswitch_iff, not_and_or]
    exact h
  exact ⟨by rw [exec_setswitch, whenEnabled_off hoff], fun t => count_offers_of_stalled rfl hoff⟩

/-! A tick of the burst (43_retransmitter.md R142). -/

section TickTx

variable {s : State} (hdelay : s.txState = .delay)
include hdelay

/-- Before the end of the delay the burst's timer counts down (43_retransmitter.md R142). -/
theorem tickTx_of_waiting (htimer : 1 < s.txTimer) : tickTx s = { s with txTimer := s.txTimer - 1 } := by
  have hlater : s.txTimer - 1 ≠ 0 := by omega
  simp [tickTx, hdelay, hlater]

/-- At the end of a delay with writes left, the next one is made (43_retransmitter.md R142). -/
theorem tickTx_of_write (htimer : s.txTimer = 1) (hrep : 0 < s.txRep) :
    tickTx s = { s with out := s.out ++ [.txWrite s.txBuf], txRep := s.txRep - 1, txTimer := 150 } := by
  simp [tickTx, hdelay, htimer, hrep, State.write, State.emit, Config.resendDelay]

/-- At the end of the last delay the burst is over (43_retransmitter.md R142). -/
theorem tickTx_of_last (htimer : s.txTimer = 1) (hrep : s.txRep = 0) :
    tickTx s = { s with txTimer := 0, txState := .idle, out := s.out ++ [.setSwitchDone .ok] } := by
  simp [tickTx, hdelay, htimer, hrep, State.emit]

end TickTx

/-- TICK with live timers (44_session.md R175). -/
theorem exec_tick_of_live {s : State} (h : countersLive s = true) : exec .tick s = .next (tickSession (tickTx s)) :=
  if_pos h

/-- Outside initialisation the session has no line in a tick (44_session.md R171, R175). -/
theorem tickSession_of_ne_initializing {s : State} (hs : s.sess ≠ .initializing) : tickSession s = s := by
  rcases tickSession_cases s with ⟨-, h⟩ | ⟨h, -⟩ | ⟨h, -⟩ | ⟨h, -⟩ | ⟨h, -⟩ | ⟨h, -⟩
  · exact h
  all_goals exact absurd h hs

/-- Outside initialisation the burst's timer is the only one that is counted (10_state.md R18, R19). -/
theorem countersLive_of_ne_initializing {s : State} (hs : s.sess ≠ .initializing) (htimer : 1 ≤ s.txTimer) :
    countersLive s = true := by
  cases h : s.sess with
  | initializing => exact absurd h hs
  | closed | ready | stopped => simp [countersLive, h, htimer]

/-- Outside initialisation a tick is TICK.TX alone (43_retransmitter.md R146, 44_session.md R175). -/
theorem exec_tick_of_ne_initializing {s : State} (hs : s.sess ≠ .initializing) (htimer : 1 ≤ s.txTimer) :
    exec .tick s = .next (tickTx s) := by
  have hsess : (tickTx s).sess ≠ .initializing := by
    obtain ⟨hsame, -⟩ := tickTx_frame s
    rwa [hsame]
  rw [exec_tick_of_live (countersLive_of_ne_initializing hs htimer), tickSession_of_ne_initializing hsess]

/-- Settles O38: the transmit part of a tick is one of three, and the session's part leaves its cells and only adds
records; outside initialisation there is no session part. -/
theorem tickCarriesTheBurst : Obligations.TickCarriesTheBurst := by
  constructor
  · intro s hdelay hlive
    obtain ⟨hbuf, hstate, hrep, htimer, -, -, -, -, -, -, -, -, hout, -⟩ := tickSession_frame (tickTx s)
    obtain ⟨-, -, -, -, -, -, -, -, -, -, -, -, -, hbufTx, -⟩ := tickTx_frame s
    refine ⟨_, exec_tick_of_live hlive, hbuf.trans hbufTx, fun ht => ?_, fun ht hr => ?_, fun ht hr => ?_⟩
    · rw [htimer, hrep, hstate, tickTx_of_waiting hdelay ht]
      exact ⟨rfl, rfl, hdelay⟩
    · rw [htimer, hrep, hstate]
      rw [tickTx_of_write hdelay ht hr] at hout ⊢
      exact ⟨rfl, rfl, hdelay, hout⟩
    · rw [hrep, hstate]
      rw [tickTx_of_last hdelay ht hr] at hout ⊢
      exact ⟨rfl, hr, hout⟩
  · intro s hdelay hs
    refine ⟨fun ht => ?_, fun ht hr => ?_, fun ht hr => ?_⟩ <;> rw [exec_tick_of_ne_initializing hs (by omega)]
    · rw [tickTx_of_waiting hdelay ht]
    · rw [tickTx_of_write hdelay ht hr]
    · rw [tickTx_of_last hdelay ht hr]

/-! A whole burst (43_retransmitter.md R142 to R144). -/

/-- In a state that meets the invariant every instruction has a next state (40_accumulator.md R90,
49_cross_family_laws.md R240 (d)). -/
theorem exists_exec_next {s : State} (h : Inv s) (i : Instr) : ∃ t, exec i s = .next t := by
  cases hexec : exec i s with
  | next t => exact ⟨t, rfl⟩
  | refused r => exact absurd hexec (exec_ne_refused i s r)
  | fault r =>
    rcases exec_fault_cases hexec with ⟨_, -, hfull⟩ | ⟨-, hdead⟩
    · exact absurd (Memory.wf_length h.accumulator) (Nat.not_lt_of_le hfull)
    · rw [h.countersLive] at hdead
      cases hdead

/-- In Ready a received byte writes no frame: its records are a result's (41_decoder.md R112, 44_session.md R176). -/
theorem txWrites_rxByte_of_ready {s : State} (hs : s.sess = .ready) (b : Byte) :
    txWrites (rxByte b s).out = txWrites s.out := by
  cases hdone : done (s.rxBuf ++ [b])
  · rw [rxByte_unfinished hdone, restartRead_eq]
  · rw [rxByte_finished hdone, restartRead_of_ready (by exact hs), endWait_of_ready (by rwa [deliver_sess])]
    simp

/-- The burst of `frame`, `n` ticks after its SETSWITCH, in Ready: the writes made since `earlier`, those to do, and the
rest of the delay, all told by `n`. -/
structure BurstAt (frame : Frame) (earlier : List Frame) (n : Nat) (s : State) : Prop where
  sess : s.sess = .ready
  txState : s.txState = .delay
  txBuf : s.txBuf = frame
  writes : txWrites s.out = earlier ++ List.replicate (1 + n / 150) frame
  txRep : s.txRep = 2 - n / 150
  txTimer : s.txTimer = 150 - n % 150

/-- The instructions that may come between the ticks of a burst: none that ends it or leaves Ready (log 11). -/
def Undisturbing (i : Instr) : Prop := i ≠ .reset ∧ i ≠ .transportFault ∧ i ≠ .halt

/-- SETSWITCH starts the burst with its first write (43_retransmitter.md R141). -/
theorem burstAt_startBurst {s : State} (hs : s.sess = .ready) (frame : Frame) :
    BurstAt frame (txWrites s.out) 0 (startBurst frame s) where
  sess := hs
  txState := rfl
  txBuf := rfl
  writes := by rw [startBurst_eq, txWrites_append]; rfl
  txRep := rfl
  txTimer := rfl

section Burst

variable {frame : Frame} {earlier : List Frame} {n : Nat} {s t : State} (h : BurstAt frame earlier n s)
include h

/-- During a burst in Ready a tick is TICK.TX alone (44_session.md R175). -/
theorem BurstAt.exec_tick : exec .tick s = .next (tickTx s) :=
  exec_tick_of_ne_initializing (by simp [h.sess]) (by have := h.txTimer; omega)

/-- A tick before the last moves the burst on by one tick (43_retransmitter.md R142). -/
theorem BurstAt.after_tick (hn : n + 1 < 450) : BurstAt frame earlier (n + 1) (tickTx s) := by
  have hrep := h.txRep
  have htimer := h.txTimer
  by_cases hend : n % 150 = 149
  · have hquot : (n + 1) / 150 = n / 150 + 1 := by omega
    rw [tickTx_of_write h.txState (by omega) (by omega)]
    refine ⟨h.sess, h.txState, h.txBuf, ?_, ?_, ?_⟩
    · rw [txWrites_append, txWrites_txWrite, h.writes, h.txBuf, hquot, List.append_assoc, ← List.replicate_succ',
        Nat.add_assoc]
    · simp only; omega
    · simp only; omega
  · have hquot : (n + 1) / 150 = n / 150 := by omega
    rw [tickTx_of_waiting h.txState (by omega)]
    refine ⟨h.sess, h.txState, h.txBuf, ?_, ?_, ?_⟩
    · rw [hquot]
      exact h.writes
    · rw [hquot]
      exact hrep
    · simp only; omega

/-- An instruction between two ticks leaves the burst where it is: one case for each thing an instruction can do
(`exec_next_cases`), of which some have no step during a burst. -/
theorem BurstAt.after_ne_tick {i : Instr} (hi : Undisturbing i) (htick : i ≠ .tick) (ht : exec i s = .next t) :
    BurstAt frame earlier n t := by
  obtain ⟨hreset, hfault, hhalt⟩ := hi
  rcases exec_next_cases ht with rfl | ⟨r, rfl⟩ | ⟨b, -, -, -, rfl⟩ | ⟨-, hs, -⟩ | ⟨-, -, -, rfl⟩ | ⟨hi, -⟩ |
    ⟨_, _, _, _, -, -, hidle, -⟩ | ⟨hi, -⟩ | ⟨hi, -⟩ | ⟨hi, -⟩
  · exact h
  · exact { h with }
  · obtain ⟨hbuf, hstate, hrep, htimer, -, -, -, -, -, -, -, hsess⟩ := rxByte_frame b s
    have hready : (rxByte b s).sess = .ready := by
      rcases hsess with ⟨hsame, -⟩ | ⟨hinit, -⟩ | ⟨hinit, -⟩
      · exact hsame.trans h.sess
      all_goals simp [h.sess] at hinit
    exact ⟨hready, hstate.trans h.txState, hbuf.trans h.txBuf, (txWrites_rxByte_of_ready h.sess b).trans h.writes,
      hrep.trans h.txRep, htimer.trans h.txTimer⟩
  · simp [h.sess] at hs
  · exact { h with }
  · exact absurd hi hhalt
  · simp [h.txState] at hidle
  · exact absurd hi htick
  · exact absurd hi hfault
  · exact absurd hi hreset

/-- Every instruction of a burst moves it on by the tick that it is, if it is one. -/
theorem BurstAt.after_exec {i : Instr} (hi : Undisturbing i) (hn : n + tickCount [i] < 450) (ht : exec i s = .next t) :
    BurstAt frame earlier (n + tickCount [i]) t := by
  by_cases htick : i = .tick
  · subst htick
    obtain rfl : tickTx s = t := Host.Outcome.next.inj (h.exec_tick.symm.trans ht)
    exact h.after_tick hn
  · have hnone : tickCount [i] = 0 := List.count_eq_zero.mpr (by simpa using Ne.symm htick)
    rw [hnone]
    exact h.after_ne_tick hi htick ht

/-- A run inside a burst has an end, and moves the burst on by its ticks (43_retransmitter.md R142, R143). -/
theorem BurstAt.after_execAll (hinv : Inv s) {is : List Instr} (his : ∀ i ∈ is, Undisturbing i)
    (hn : n + tickCount is < 450) : ∃ t, execAll is s = .next t ∧ BurstAt frame earlier (n + tickCount is) t := by
  induction is generalizing s n with
  | nil => exact ⟨s, rfl, h⟩
  | cons i rest ih =>
    have hcount : n + tickCount (i :: rest) = n + tickCount [i] + tickCount rest := by
      rw [Nat.add_assoc, tickCount, ← List.singleton_append, List.count_append]; rfl
    rw [hcount] at hn ⊢
    obtain ⟨t, ht⟩ := exists_exec_next hinv i
    have hmoved := h.after_exec (his i List.mem_cons_self) (by omega) ht
    simp only [execAll, ht]
    exact ih hmoved (hinv.exec ht) (fun j hj => his j (List.mem_cons_of_mem i hj)) hn

end Burst

/-- Settles O57: SETSWITCH starts the burst, every instruction moves it on by its ticks (`BurstAt.after_execAll`), and from tick
449, with no write left and the timer at 1, one more tick ends it. -/
theorem burstMakesThreeWritesOneHundredFiftyTicksApart :
    Obligations.BurstMakesThreeWritesOneHundredFiftyTicksApart := by
  intro s a u q on is hinv hs hidle hreset hfault hhalt
  have hrun (hn : tickCount is < 450) : ∃ t, execAll (.setswitch a u q on :: is) s = .next t ∧
      BurstAt (encSwcmd a u on q) (txWrites s.out) (tickCount is) t := by
    have hstart := exec_setswitch_of_idle hs hidle a u q on
    have his : ∀ i ∈ is, Undisturbing i := fun i hi =>
      ⟨ne_of_mem_of_not_mem hi hreset, ne_of_mem_of_not_mem hi hfault, ne_of_mem_of_not_mem hi hhalt⟩
    obtain ⟨t, ht, hburst⟩ := (burstAt_startBurst hs (encSwcmd a u on q)).after_execAll (hinv.exec hstart) his (by omega)
    rw [Nat.zero_add] at hburst
    exact ⟨t, by simpa only [execAll, hstart] using ht, hburst⟩
  refine ⟨fun hn => ?_, fun hn => ?_⟩
  · obtain ⟨t, ht, hburst⟩ := hrun hn
    exact ⟨t, ht, hburst.txState, hburst.writes, hburst.txRep, hburst.txTimer⟩
  · obtain ⟨t, ht, hburst⟩ := hrun (by omega)
    rw [hn] at hburst
    have hlast := hburst.exec_tick
    rw [tickTx_of_last hburst.txState hburst.txTimer hburst.txRep] at hlast
    refine ⟨_, by rw [execAll_append, ht]; simp only [execAll, hlast]; rfl, rfl, ?_, _, rfl⟩
    rw [txWrites_append, hburst.writes, txWrites_setSwitchDone, List.append_nil]

end Sys2Proof.Machine
end

section
/-! The session: the host operations, the tick of each phase of initialisation, the byte that ends a wait, the
transitions, and the handshake over its ticks (44_session.md). -/

namespace Sys2Proof.Machine

/-! The host operations, each by its guard. -/

/-- INIT by its guard (44_session.md R161). -/
theorem exec_init (s : State) :
    exec .init s =
      whenEnabled .init s
        (.next { issue .reset { s with sess := .initializing } with phase := .settle, timer := Config.tSettle }) := rfl

/-- RUN by its guard (44_session.md R169). -/
theorem exec_run (s : State) : exec .run s = whenEnabled .run s (.next { s with running := true }) := rfl

/-- HALT by its guard (44_session.md R172). -/
theorem exec_halt (s : State) :
    exec .halt s =
      whenEnabled .halt s
        (.next (({ s with running := false, sess := .stopped } : State).emitIf s.running (.runReturned .ok))) := rfl

/-- When INIT has a step (10_state.md R22). -/
theorem enabled_init_iff {s : State} : enabled .init s = true ↔ s.sess = .closed := by
  simp [enabled]

/-- When RUN has a step (10_state.md R22). -/
theorem enabled_run_iff {s : State} : enabled .run s = true ↔ s.sess = .ready ∧ s.running = false := by
  simp [enabled]

/-- When HALT has a step (10_state.md R22). -/
theorem enabled_halt_iff {s : State} : enabled .halt s = true ↔ s.sess = .ready := by
  simp [enabled]

/-- The state after INIT: RESET is sent and the settle timer runs (44_session.md R161). -/
def opened (s : State) : State :=
  { issue .reset { s with sess := .initializing } with phase := .settle, timer := Config.tSettle }

/-- INIT where it has a step (44_session.md R161). -/
theorem exec_init_of_closed {s : State} (hs : s.sess = .closed) : exec .init s = .next (opened s) := by
  rw [exec_init, whenEnabled_on (enabled_init_iff.mpr hs), opened]

/-- Settles O33: INIT is enabled in Closed and nowhere else, and its effect is ISSUE's. -/
theorem initOpensAndSendsReset : Obligations.InitOpensAndSendsReset := by
  refine ⟨fun s hs => ?_, fun s hs => ?_⟩
  · rw [exec_init_of_closed hs, opened, issue_eq]
    rfl
  · have hoff : enabled .init s = false := by rwa [Bool.eq_false_iff, Ne, enabled_init_iff]
    rw [exec_init, whenEnabled_off hoff]

/-- Settles O34: RUN is enabled in Ready outside the receive loop and nowhere else. -/
theorem runStartsTheReceiveLoop : Obligations.RunStartsTheReceiveLoop := by
  refine ⟨fun s hs hrun => ?_, fun s h => ?_⟩
  · rw [exec_run, whenEnabled_on (enabled_run_iff.mpr ⟨hs, hrun⟩)]
  · have hoff : enabled .run s = false := by
      rw [Bool.eq_false_iff, Ne, enabled_run_iff, not_and_or, Bool.not_eq_false]
      exact h
    rw [exec_run, whenEnabled_off hoff]

/-- Settles O35: HALT is enabled in Ready and nowhere else, and its record depends on `running`. -/
theorem haltStopsTheSession : Obligations.HaltStopsTheSession := by
  refine ⟨fun s hs hrun => ?_, fun s hs hrun => ?_, fun s hs => ?_⟩
  · rw [exec_halt, whenEnabled_on (enabled_halt_iff.mpr hs), hrun]
    rfl
  · rw [exec_halt, whenEnabled_on (enabled_halt_iff.mpr hs), hrun]
    rfl
  · have hoff : enabled .halt s = false := by rwa [Bool.eq_false_iff, Ne, enabled_halt_iff]
    rw [exec_halt, whenEnabled_off hoff]

/-! A tick with no burst (44_session.md R175). -/

/-- The state after the settle phase: ENABLE_ALL is sent and the first wait's time-out runs (44_session.md R162). -/
def settled (s : State) : State :=
  { issue .enableAll { s with timer := 0 } with phase := .waitEnable, rdTimer := Config.tRead }

section NoBurst

variable {s : State} (hidle : s.txState = .idle)
include hidle

/-- With no burst TICK.TX has nothing to do (43_retransmitter.md R142). -/
theorem tickTx_of_idle : tickTx s = s := by
  simp [tickTx, hidle]

/-- With no burst a tick with live timers is the session's part alone (44_session.md R175). -/
theorem exec_tick_of_idle (hlive : countersLive s = true) : exec .tick s = .next (tickSession s) := by
  rw [exec_tick_of_live hlive, tickTx_of_idle hidle]

/-- Outside initialisation, with no burst, no timer is counted (10_state.md R18, R19). -/
theorem countersLive_of_idle (hs : s.sess ≠ .initializing) : countersLive s = true := by
  cases h : s.sess with
  | initializing => exact absurd h hs
  | closed | ready | stopped => simp [countersLive, h, hidle]

section Initializing

variable (hs : s.sess = .initializing)
include hs

/-- In the settle phase the settle timer is the one that is counted (10_state.md R18). -/
theorem countersLive_of_settle (hp : s.phase = .settle) (htimer : 1 ≤ s.timer) : countersLive s = true := by
  simp [countersLive, hidle, hs, hp, htimer]

/-- In a wait the read time-out is the one that is counted (10_state.md R18). -/
theorem countersLive_of_wait (hp : s.phase ≠ .settle) (htimer : 1 ≤ s.rdTimer) : countersLive s = true := by
  cases hphase : s.phase with
  | settle => exact absurd hphase hp
  | waitEnable | waitStatus => simp [countersLive, hidle, hs, hphase, htimer]

/-- Before the end of the settle phase its timer counts down (44_session.md R162). -/
theorem exec_tick_of_settling (hp : s.phase = .settle) (htimer : 1 < s.timer) :
    exec .tick s = .next { s with timer := s.timer - 1 } := by
  have hlater : s.timer - 1 ≠ 0 := by omega
  rw [exec_tick_of_idle hidle (countersLive_of_settle hidle hs hp htimer.le)]
  simp [tickSession, tickSettle, hs, hp, hlater]

/-- The last tick of the settle phase sends ENABLE_ALL and starts the first wait (44_session.md R162). -/
theorem exec_tick_of_settled (hp : s.phase = .settle) (htimer : s.timer = 1) :
    exec .tick s = .next (settled s) := by
  rw [exec_tick_of_idle hidle (countersLive_of_settle hidle hs hp htimer.ge)]
  simp [tickSession, tickSettle, settled, hs, hp, htimer]

/-- Before the end of a wait its time-out counts down (44_session.md R164, R167). -/
theorem exec_tick_of_waiting (hp : s.phase ≠ .settle) (htimer : 1 < s.rdTimer) :
    exec .tick s = .next { s with rdTimer := s.rdTimer - 1 } := by
  have hlater : s.rdTimer - 1 ≠ 0 := by omega
  rw [exec_tick_of_idle hidle (countersLive_of_wait hidle hs hp htimer.le)]
  cases hphase : s.phase with
  | settle => exact absurd hphase hp
  | waitEnable | waitStatus => simp [tickSession, tickWait, hs, hphase, hlater]

/-- The last tick of the first wait sends STATUS, and the second wait begins (44_session.md R165). -/
theorem exec_tick_of_enable_timeout (hp : s.phase = .waitEnable) (htimer : s.rdTimer = 1) :
    exec .tick s = .next (sendStatus s) := by
  rw [exec_tick_of_idle hidle (countersLive_of_wait hidle hs (by simp [hp]) htimer.ge)]
  simp [tickSession, tickWait, hs, hp, htimer, sendStatus_eq]

/-- The last tick of the second wait ends the initialisation (44_session.md R168). -/
theorem exec_tick_of_status_timeout (hp : s.phase = .waitStatus) (htimer : s.rdTimer = 1) :
    exec .tick s = .next (complete { s with rdTimer := 0 }) := by
  rw [exec_tick_of_idle hidle (countersLive_of_wait hidle hs (by simp [hp]) htimer.ge)]
  simp [tickSession, tickWait, hs, hp, htimer]

end Initializing

end NoBurst

/-- Settles O39: no timer is counted, and neither part of the tick has anything to do. -/
theorem tickIsIdleOutsideInitialisation : Obligations.TickIsIdleOutsideInitialisation := by
  intro s hs hidle
  rw [exec_tick_of_idle hidle (countersLive_of_idle hidle hs), tickSession_of_ne_initializing hs]

/-- Settles O40, by whether the settle timer ends. -/
theorem tickEndsTheSettlePhaseWithEnableAll : Obligations.TickEndsTheSettlePhaseWithEnableAll := by
  intro s hs hp hidle
  refine ⟨exec_tick_of_settling hidle hs hp, fun htimer => ?_⟩
  rw [exec_tick_of_settled hidle hs hp htimer, settled, issue_eq]
  rfl

/-- Settles O41, by whether the time-out ends, and which wait it ends. -/
theorem tickEndsTheWaitsOnTimeOut : Obligations.TickEndsTheWaitsOnTimeOut := by
  intro s hs hidle
  refine ⟨exec_tick_of_waiting hidle hs, fun hp htimer => ?_, fun hp htimer => ?_⟩
  · rw [exec_tick_of_enable_timeout hidle hs hp htimer, sendStatus_eq]
    rfl
  · rw [exec_tick_of_status_timeout hidle hs hp htimer, complete_eq]

/-! What a received byte records of the firmware (44_session.md R173). -/

/-- The byte that brings the buffer to its declared length completes the frame (40_accumulator.md R91). -/
theorem done_append_of_declared {buf : Frame} {b length : Byte} (hfirst : (buf ++ [b])[0]? = some length)
    (hlength : buf.length + 1 = length.toNat + 1) : done (buf ++ [b]) = true := by
  rw [done_append hfirst, decide_eq_true hlength]

theorem deliver_status (v : Byte) (s : State) :
    (deliver (.status v) s).fwRev = v ∧ (deliver (.status v) s).fwValid = true := ⟨rfl, rfl⟩

/-- A result that is no `Status` leaves the firmware record alone (44_session.md R173). -/
theorem deliver_of_ne_status {r : Decoded} (hr : ∀ v, r ≠ .status v) (s : State) :
    (deliver r s).fwRev = s.fwRev ∧ (deliver r s).fwValid = s.fwValid := by
  cases r with
  | status v => exact absurd rfl (hr v)
  | temperature | deviceState | none => exact ⟨rfl, rfl⟩

/-! The end of a wait leaves the firmware record alone (44_session.md R165, R168). -/

@[simp] theorem endWait_fwRev (s : State) : (endWait s).fwRev = s.fwRev := by
  rcases endWait_cases s with ⟨-, -, he⟩ | ⟨-, -, he⟩ | ⟨-, he⟩ <;> simp [he, sendStatus_eq, complete_eq]

@[simp] theorem endWait_fwValid (s : State) : (endWait s).fwValid = s.fwValid := by
  rcases endWait_cases s with ⟨-, -, he⟩ | ⟨-, -, he⟩ | ⟨-, he⟩ <;> simp [he, sendStatus_eq, complete_eq]

/-- The byte that completes a `Status` frame records its revision (44_session.md R173). -/
theorem rxByte_firmware_of_status {b v : Byte} {s : State} (hdone : done (s.rxBuf ++ [b]) = true)
    (hr : decodeFrame (s.rxBuf ++ [b]) = .status v) : (rxByte b s).fwRev = v ∧ (rxByte b s).fwValid = true := by
  rw [rxByte_finished hdone, hr, endWait_fwRev, endWait_fwValid]
  exact deliver_status v _

/-- The byte that completes another frame leaves the firmware record alone (44_session.md R173). -/
theorem rxByte_firmware_of_ne_status {b : Byte} {s : State} (hdone : done (s.rxBuf ++ [b]) = true)
    (hr : ∀ v, decodeFrame (s.rxBuf ++ [b]) ≠ .status v) :
    (rxByte b s).fwRev = s.fwRev ∧ (rxByte b s).fwValid = s.fwValid := by
  rw [rxByte_finished hdone, endWait_fwRev, endWait_fwValid, restartRead_eq]
  exact deliver_of_ne_status hr _

/-- A byte in the middle of a frame leaves the firmware record alone (44_session.md R173). -/
theorem rxByte_firmware_of_unfinished {b : Byte} {s : State} (hdone : done (s.rxBuf ++ [b]) = false) :
    (rxByte b s).fwRev = s.fwRev ∧ (rxByte b s).fwValid = s.fwValid := by
  rw [rxByte_unfinished hdone, restartRead_eq]
  exact ⟨rfl, rfl⟩

/-- What can happen to the firmware record (44_session.md R173, 70_reset_and_hazards.md R220). -/
theorem exec_firmware_cases {i : Instr} {s t : State} (h : exec i s = .next t) :
    (t.fwRev = s.fwRev ∧ t.fwValid = s.fwValid) ∨ i = .reset ∨
      ∃ b v, i = .feed b ∧ done (s.rxBuf ++ [b]) = true ∧ decodeFrame (s.rxBuf ++ [b]) = .status v := by
  rcases exec_next_cases h with rfl | ⟨r, rfl⟩ | ⟨b, hi, -, -, rfl⟩ | ⟨-, -, rfl⟩ | ⟨-, -, -, rfl⟩ | ⟨-, -, rfl⟩ |
    ⟨a, u, q, on, -, -, -, rfl⟩ | ⟨-, -, rfl⟩ | ⟨-, -, rfl⟩ | ⟨hi, -⟩
  · exact .inl ⟨rfl, rfl⟩
  · exact .inl ⟨rfl, rfl⟩
  · cases hdone : done (s.rxBuf ++ [b]) with
    | false => exact .inl (rxByte_firmware_of_unfinished hdone)
    | true =>
      by_cases hr : ∃ v, decodeFrame (s.rxBuf ++ [b]) = .status v
      · obtain ⟨v, hr⟩ := hr
        exact .inr (.inr ⟨b, v, hi, hdone, hr⟩)
      · exact .inl (rxByte_firmware_of_ne_status hdone (not_exists.mp hr))
  · exact .inl ⟨rfl, rfl⟩
  · exact .inl ⟨rfl, rfl⟩
  · exact .inl ⟨rfl, rfl⟩
  · exact .inl ⟨rfl, rfl⟩
  · obtain ⟨-, -, -, -, -, -, -, -, -, -, -, hrevTx, hvalidTx, -⟩ := tickTx_frame s
    obtain ⟨-, -, -, -, -, -, -, -, -, -, hrev, hvalid, -⟩ := tickSession_frame (tickTx s)
    exact .inl ⟨hrev.trans hrevTx, hvalid.trans hvalidTx⟩
  · exact .inl (by rw [faultEntry_eq]; exact ⟨rfl, rfl⟩)
  · exact .inr (.inl hi)

/-- Settles O16: the receive step on a `Status` frame's last byte records the revision and its event first, and no other
instruction but RESET touches the record (`exec_firmware_cases`). -/
theorem statusIsRecordedInEveryReadPhase : Obligations.StatusIsRecordedInEveryReadPhase := by
  refine ⟨fun s b length v hread hroom hfirst hlength hr => ?_, fun i s t h hchanged => ?_⟩
  · have hdone : done (s.rxBuf ++ [b]) = true := done_append_of_declared hfirst hlength
    obtain ⟨hrev, hvalid⟩ := rxByte_firmware_of_status hdone hr
    obtain ⟨-, tail, hout, -⟩ := rxByte_finished_out hdone
    refine ⟨rxByte b s, exec_feed_of_reading hread hroom, hrev, hvalid, tail, ?_⟩
    rw [hout, hr, ← List.append_cons]
    rfl
  · rcases exec_firmware_cases h with ⟨hrev, hvalid⟩ | hother
    · exact absurd hchanged (by simp [hrev, hvalid])
    · exact hother

/-! The byte that ends a wait (44_session.md R163, R166, R176). -/

/-- In WaitEnable the byte that completes a frame delivers it and sends STATUS (44_session.md R165). -/
theorem rxByte_finished_of_waitEnable {b : Byte} {s : State} (hs : s.sess = .initializing) (hp : s.phase = .waitEnable)
    (hdone : done (s.rxBuf ++ [b]) = true) :
    rxByte b s =
      sendStatus (deliver (decodeFrame (s.rxBuf ++ [b])) { s with rxBuf := [], rdTimer := Config.tRead }) := by
  simp [rxByte_finished hdone, restartRead_eq, endWait, deliver_eq, hs, hp]

/-- In WaitStatus the byte that completes a frame delivers it and ends the initialisation (44_session.md R168). -/
theorem rxByte_finished_of_waitStatus {b : Byte} {s : State} (hs : s.sess = .initializing) (hp : s.phase = .waitStatus)
    (hdone : done (s.rxBuf ++ [b]) = true) :
    rxByte b s =
      complete (deliver (decodeFrame (s.rxBuf ++ [b])) { s with rxBuf := [], rdTimer := Config.tRead }) := by
  simp [rxByte_finished hdone, restartRead_eq, endWait, deliver_eq, hs, hp]

/-- Settles O13: the receive step is the delivery, then SENDSTATUS. -/
theorem feedEndsTheEnableWaitWithStatus : Obligations.FeedEndsTheEnableWaitWithStatus := by
  intro s b length hs hp hroom hfirst hlength
  have hdone : done (s.rxBuf ++ [b]) = true := done_append_of_declared hfirst hlength
  have hstep := rxByte_finished_of_waitEnable hs hp hdone
  rw [sendStatus_eq, deliver_eq] at hstep
  refine ⟨rxByte b s, exec_feed_of_reading (.inl ⟨hs, by simp [hp]⟩) hroom, ?_, ?_,
    fun v hr => rxByte_firmware_of_status hdone hr, rxByte_firmware_of_ne_status hdone⟩
  · rw [hstep, List.append_assoc]
    rfl
  · rw [hstep]
    rfl

/-- Settles O14: the receive step is the delivery, then COMPLETE. -/
theorem feedEndsTheStatusWaitWithReady : Obligations.FeedEndsTheStatusWaitWithReady := by
  intro s b length hs hp hroom hfirst hlength
  have hdone : done (s.rxBuf ++ [b]) = true := done_append_of_declared hfirst hlength
  have hstep := rxByte_finished_of_waitStatus hs hp hdone
  rw [complete_eq, deliver_eq] at hstep
  refine ⟨rxByte b s, exec_feed_of_reading (.inl ⟨hs, by simp [hp]⟩) hroom, ?_, ?_,
    fun v hr => rxByte_firmware_of_status hdone hr, rxByte_firmware_of_ne_status hdone⟩
  · rw [hstep, List.append_assoc]
    rfl
  · rw [hstep]

/-! The transitions (44_session.md R160). -/

/-- Where a tick can take the session and its phase: TICK.TX leaves them, so the session lines say it all
(44_session.md R175). -/
theorem tick_session_cases (s : State) :
    ((tickSession (tickTx s)).sess = s.sess ∧ (tickSession (tickTx s)).phase = s.phase) ∨
      (s.sess = .initializing ∧ s.phase = .waitStatus ∧ (tickSession (tickTx s)).sess = .ready ∧
        (tickSession (tickTx s)).phase = s.phase) ∨
      (s.sess = .initializing ∧ s.phase = .waitEnable ∧ (tickSession (tickTx s)).sess = s.sess ∧
        (tickSession (tickTx s)).phase = .waitStatus) ∨
      (s.sess = .initializing ∧ s.phase = .settle ∧ (tickSession (tickTx s)).sess = s.sess ∧
        (tickSession (tickTx s)).phase = .waitEnable) := by
  obtain ⟨hsess, hphase, -⟩ := tickTx_session s
  obtain ⟨-, -, -, -, -, -, -, -, -, -, -, -, -, hmove⟩ := tickSession_frame (tickTx s)
  rwa [hsess, hphase] at hmove

/-- Settles O51, over what an instruction can do (`exec_next_cases`): a byte and a tick move the session as their own
lemmas say, INIT, HALT, the fault and RESET each make their one transition, and the rest leave it. -/
theorem sessionTakesOnlyTheListedTransitions : Obligations.SessionTakesOnlyTheListedTransitions := by
  intro i s t h
  rcases exec_next_cases h with rfl | ⟨r, rfl⟩ | ⟨b, hi, -, -, rfl⟩ | ⟨hi, hs, rfl⟩ | ⟨-, -, -, rfl⟩ | ⟨hi, hs, rfl⟩ |
    ⟨a, u, q, on, -, -, -, rfl⟩ | ⟨hi, -, rfl⟩ | ⟨hi, hopen, rfl⟩ | ⟨hi, rfl⟩
  · exact ⟨.inl rfl, fun _ _ => .inl rfl⟩
  · exact ⟨.inl rfl, fun _ _ => .inl rfl⟩
  · obtain ⟨-, -, -, -, -, -, -, -, -, -, -, ⟨hsess, hphase⟩ | ⟨hs, hp, hsess, hphase⟩ | ⟨hs, hp, hsess, hphase⟩⟩ :=
      rxByte_frame b s
    · exact ⟨.inl hsess, fun _ _ => .inl hphase⟩
    · exact ⟨.inr (.inr (.inl ⟨.inr ⟨b, hi⟩, hs, hp, hsess⟩)), fun _ _ => .inl hphase⟩
    · exact ⟨.inl hsess, fun _ _ => .inr (.inr ⟨.inr ⟨b, hi⟩, hp, hphase⟩)⟩
  · exact ⟨.inr (.inl ⟨hi, hs, rfl, rfl⟩), fun hinit => by simp [hs] at hinit⟩
  · exact ⟨.inl rfl, fun _ _ => .inl rfl⟩
  · exact ⟨.inr (.inr (.inr (.inl ⟨hi, hs, rfl⟩))), nofun⟩
  · exact ⟨.inl rfl, fun _ _ => .inl rfl⟩
  · rcases tick_session_cases s with ⟨hsess, hphase⟩ | ⟨hs, hp, hsess, hphase⟩ | ⟨hs, hp, hsess, hphase⟩ |
      ⟨hs, hp, hsess, hphase⟩
    · exact ⟨.inl hsess, fun _ _ => .inl hphase⟩
    · exact ⟨.inr (.inr (.inl ⟨.inl hi, hs, hp, hsess⟩)), fun _ _ => .inl hphase⟩
    · exact ⟨.inl hsess, fun _ _ => .inr (.inr ⟨.inl hi, hp, hphase⟩)⟩
    · exact ⟨.inl hsess, fun _ _ => .inr (.inl ⟨hi, hp, hphase⟩)⟩
  · have hstopped : (faultEntry s).sess = .stopped := by rw [faultEntry_eq]
    exact ⟨.inr (.inr (.inr (.inr (.inl ⟨hi, hopen, hstopped⟩)))), fun _ hinit => by simp [hstopped] at hinit⟩
  · exact ⟨.inr (.inr (.inr (.inr (.inr ⟨hi, rfl⟩)))), nofun⟩

/-! The handshake over its ticks, with a silent transceiver (44_session.md R161 to R168). -/

/-- A run goes on from where its first part ends. -/
theorem execAll_append_of_next {is : List Instr} {s t : State} (h : execAll is s = .next t) (js : List Instr) :
    execAll (is ++ js) s = execAll js t := by
  rw [execAll_append, h]

/-- A count that each tick takes down by one, and whose last tick gives `t`, is run out by as many ticks as it holds. -/
theorem execAll_countdown {counting : Nat → State}
    (hcount : ∀ k, exec .tick (counting (k + 2)) = .next (counting (k + 1))) {t : State}
    (hlast : exec .tick (counting 1) = .next t) (n : Nat) :
    execAll (List.replicate (n + 1) .tick) (counting (n + 1)) = .next t := by
  induction n with
  | zero => simp only [List.replicate, execAll, hlast]
  | succ n ih => simpa only [List.replicate_succ, execAll, hcount n] using ih

section Silent

variable {s : State} (hidle : s.txState = .idle) (hs : s.sess = .initializing)
include hidle hs

/-- The ticks of the settle phase (44_session.md R162). -/
theorem execAll_settle (hp : s.phase = .settle) :
    execAll (List.replicate Config.tSettle .tick) { s with timer := Config.tSettle } = .next (settled s) :=
  execAll_countdown (counting := fun k => { s with timer := k })
    (fun k => exec_tick_of_settling hidle hs hp (Nat.le_add_left 2 k))
    (exec_tick_of_settled hidle hs hp rfl) Config.tSettleLessOne

/-- The ticks of the first wait (44_session.md R164, R165). -/
theorem execAll_waitEnable (hp : s.phase = .waitEnable) :
    execAll (List.replicate Config.tRead .tick) { s with rdTimer := Config.tRead } = .next (sendStatus s) :=
  execAll_countdown (counting := fun k => { s with rdTimer := k })
    (fun k => exec_tick_of_waiting hidle hs (by simp [hp]) (Nat.le_add_left 2 k))
    (exec_tick_of_enable_timeout hidle hs hp rfl) Config.tReadLessOne

/-- The ticks of the second wait (44_session.md R167, R168). -/
theorem execAll_waitStatus (hp : s.phase = .waitStatus) :
    execAll (List.replicate Config.tRead .tick) { s with rdTimer := Config.tRead } =
      .next (complete { s with rdTimer := 0 }) :=
  execAll_countdown (counting := fun k => { s with rdTimer := k })
    (fun k => exec_tick_of_waiting hidle hs (by simp [hp]) (Nat.le_add_left 2 k))
    (exec_tick_of_status_timeout hidle hs hp rfl) Config.tReadLessOne

end Silent

section FromZero

variable {s : State} (hseq : s.ifSeq = 0#8)
include hseq

/-- From `if_seq` 0 the first wait begins with two commands counted (44_session.md R174). -/
theorem settled_opened_ifSeq : (settled (opened s)).ifSeq = 2#8 := by
  simp [settled, opened, issue_eq, nextSeq, hseq]

/-- From `if_seq` 0 the first wait begins with the handshake's first two commands written (44_session.md R161, R162). -/
theorem settled_opened_out : (settled (opened s)).out = s.out ++ (handshake.take 2).map .txWrite := by
  simp [settled, opened, issue_eq, encIfcmd_eq, IfCommand.code, handshake, nextSeq, hseq]

/-- From `if_seq` 0 the second wait begins with the whole handshake written (44_session.md R165). -/
theorem sendStatus_settled_opened_out : (sendStatus (settled (opened s))).out = s.out ++ handshake.map .txWrite := by
  rw [sendStatus_eq, settled_opened_ifSeq hseq, settled_opened_out hseq, List.append_assoc]
  rfl

end FromZero

/-- Settles O58: INIT, then the ticks of each phase take the session through `opened`, `settled`, `sendStatus` and
`complete`, whose commands from `if_seq` 0 are the handshake's. -/
theorem silentHandshakeReachesReady : Obligations.SilentHandshakeReachesReady := by
  intro s hs hidle hseq
  have hsettled : execAll (.init :: List.replicate Config.tSettle .tick) s = .next (settled (opened s)) := by
    simp only [execAll, exec_init_of_closed hs]
    exact execAll_settle (s := opened s) hidle rfl rfl
  have hstatus : execAll (.init :: List.replicate (Config.tSettle + Config.tRead) .tick) s =
      .next (sendStatus (settled (opened s))) := by
    rw [List.replicate_add, ← List.cons_append, execAll_append_of_next hsettled]
    exact execAll_waitEnable (s := settled (opened s)) hidle rfl rfl
  have hready : execAll (.init :: List.replicate (Config.tSettle + 2 * Config.tRead) .tick) s =
      .next (complete { sendStatus (settled (opened s)) with rdTimer := 0 }) := by
    rw [Nat.two_mul, ← Nat.add_assoc, List.replicate_add, ← List.cons_append, execAll_append_of_next hstatus]
    exact execAll_waitStatus (s := sendStatus (settled (opened s))) hidle rfl rfl
  refine ⟨⟨_, hsettled, rfl, rfl, settled_opened_out hseq⟩,
    ⟨_, hstatus, rfl, rfl, sendStatus_settled_opened_out hseq⟩, ⟨_, hready, rfl, rfl, ?_, rfl, rfl, ?_⟩⟩
  · simp [complete_eq, sendStatus_eq, settled_opened_ifSeq hseq, nextSeq]
  · rw [complete_eq, sendStatus_settled_opened_out hseq]

end Sys2Proof.Machine
end

section
/-! When a tick stops: an exhausted timer in the phase that counts it (49_cross_family_laws.md R240 (d), log 12). -/

namespace Sys2Proof.Machine

/-- A tick stops exactly when a counted timer is not live, and its fault is the underflow (log 12). -/
theorem exec_tick_eq_fault_iff {s : State} {r : Fault} :
    exec .tick s = .fault r ↔ r = .counterUnderflow ∧ countersLive s = false := by
  cases hlive : countersLive s
  · simp [exec, execTick, hlive, eq_comm]
  · simp [exec_tick_of_live hlive]

/-- Which timer each state counts: the burst's in Delay, and of the session's two the one of its phase (10_state.md R18,
R19). -/
theorem countersLive_eq_false_iff (s : State) : countersLive s = false ↔
    (s.txState = .delay ∧ s.txTimer = 0) ∨
      (s.sess = .initializing ∧ s.phase = .settle ∧ s.timer = 0) ∨
      (s.sess = .initializing ∧ s.phase ≠ .settle ∧ s.rdTimer = 0) := by
  have hburst : (s.txState == .idle || decide (1 ≤ s.txTimer)) = false ↔ s.txState = .delay ∧ s.txTimer = 0 := by
    cases s.txState <;> simp
  rw [countersLive, Bool.and_eq_false_iff, hburst]
  cases hs : s.sess with
  | closed | ready | stopped => simp
  | initializing =>
    cases hp : s.phase with
    | settle | waitEnable | waitStatus => simp

/-- Settles O42: a tick stops exactly when a counted timer is not live, and those are the timers named. -/
theorem tickStopsOnlyOnAnExhaustedTimer : Obligations.TickStopsOnlyOnAnExhaustedTimer := fun s r => by
  rw [exec_tick_eq_fault_iff, countersLive_eq_false_iff]

end Sys2Proof.Machine
end

section
/-! The exceptions: the fault entry and its completion records, and what the receive path and the burst leave of each other
(60_exceptions.md). -/

namespace Sys2Proof.Machine

/-! The fault entry (60_exceptions.md R196). -/

/-- With the port open a transport fault takes the fault entry (60_exceptions.md R196). -/
theorem exec_transportFault_of_open {s : State} (h : portOpen s = true) :
    exec .transportFault s = .next (faultEntry s) :=
  if_pos h

/-- With the port closed a transport fault has no effect (60_exceptions.md R196). -/
theorem exec_transportFault_of_not_open {s : State} (h : ¬ portOpen s = true) : exec .transportFault s = .next s :=
  if_neg h

/-- A burst is in flight exactly in Delay (10_state.md R19, R26). -/
theorem txBusy_iff_delay {s : State} : txBusy s = true ↔ s.txState = .delay := by
  rw [txBusy_iff]
  cases s.txState <;> simp

/-- Settles O43: with the port open the effect is the fault entry, its last record that of a burst in flight; with the port
closed there is none. -/
theorem transportFaultStopsTheSession : Obligations.TransportFaultStopsTheSession := by
  refine ⟨fun s hs => ?_, fun s hs => ?_⟩
  · rw [exec_transportFault_of_open (portOpen_iff.mpr hs), faultEntry_eq]
    simp only [beq_iff_eq, txBusy_iff_delay]
  · have hclosed : ¬ portOpen s = true := by
      rw [portOpen_iff]
      rcases hs with hs | hs <;> simp [hs]
    exact exec_transportFault_of_not_open hclosed

/-! The receive path and the burst (60_exceptions.md R205). -/

/-- What an event with a guard can do: nothing where it is not enabled, else its step (10_state.md R22). -/
theorem whenEnabled_next {i : Instr} {s t : State} {k : Host.Outcome State Fault Refusal}
    (h : whenEnabled i s k = .next t) : t = s ∨ k = .next t := by
  cases hon : enabled i s with
  | false =>
    rw [whenEnabled_off hon] at h
    exact .inl (Host.Outcome.next.inj h).symm
  | true =>
    rw [whenEnabled_on hon] at h
    exact .inr h

/-- What a fed byte can do: nothing outside the read phases, else the receive step (40_accumulator.md R90, 44_session.md
R176). -/
theorem exec_feed_next {b : Byte} {s t : State} (h : exec (.feed b) s = .next t) : t = s ∨ t = rxByte b s := by
  rw [exec_feed] at h
  refine (whenEnabled_next h).imp_right fun hstep => ?_
  split at hstep
  · exact (Host.Outcome.next.inj hstep).symm
  · cases hstep

/-- What a switch command can do: nothing while it waits, else the start of a burst (43_retransmitter.md R141). -/
theorem exec_setswitch_next {a : BitVec 32} {u q : Byte} {on : Bool} {s t : State}
    (h : exec (.setswitch a u q on) s = .next t) : t = s ∨ t = startBurst (encSwcmd a u on q) s := by
  rw [exec_setswitch] at h
  exact (whenEnabled_next h).imp_right fun hstep => (Host.Outcome.next.inj hstep).symm

/-- What a tick outside initialisation can do: TICK.TX alone (43_retransmitter.md R146, 44_session.md R175). -/
theorem exec_tick_next_of_ne_initializing {s t : State} (hs : s.sess ≠ .initializing) (h : exec .tick s = .next t) :
    t = tickTx s := by
  obtain ⟨hsess, -⟩ := tickTx_frame s
  cases hlive : countersLive s with
  | false =>
    rw [exec_tick_eq_fault_iff.mpr ⟨rfl, hlive⟩] at h
    cases h
  | true =>
    rw [exec_tick_of_live hlive, tickSession_of_ne_initializing (hsess ▸ hs)] at h
    exact (Host.Outcome.next.inj h).symm

/-- Settles O54: FEED is at most the receive step, which leaves the transmit cells (`rxByte_frame`); a tick outside
initialisation is TICK.TX, which leaves the rest (`tickTx_frame`), and a switch command at most starts a burst. -/
theorem receivePathAndBurstShareNoState : Obligations.ReceivePathAndBurstShareNoState := by
  refine ⟨fun b s t h => ?_, fun i s t hi h => ?_⟩
  · rcases exec_feed_next h with rfl | rfl
    · exact ⟨rfl, rfl, rfl, rfl⟩
    · obtain ⟨hbuf, hstate, hrep, htimer, -⟩ := rxByte_frame b s
      exact ⟨hbuf, hstate, hrep, htimer⟩
  · rcases hi with ⟨rfl, hs⟩ | ⟨a, u, q, on, rfl⟩
    · rw [exec_tick_next_of_ne_initializing hs h]
      obtain ⟨hsess, hphase, htimer, hrdTimer, hseq, herr, -, hrunning, -, -, hbuf, hrev, hvalid, -⟩ := tickTx_frame s
      exact ⟨hbuf, hrev, hvalid, hrdTimer, htimer, hphase, hsess, hrunning, hseq, herr⟩
    · rcases exec_setswitch_next h with rfl | rfl
      · exact ⟨rfl, rfl, rfl, rfl, rfl, rfl, rfl, rfl, rfl, rfl⟩
      · rw [startBurst_eq]
        exact ⟨rfl, rfl, rfl, rfl, rfl, rfl, rfl, rfl, rfl, rfl⟩

end Sys2Proof.Machine
end

section
/-! RESET writes the reset state over the block's cells (70_reset_and_hazards.md R220). -/

namespace Sys2Proof.Machine

/-- RESET is enabled in every state, and what the agents outside offer is not the block's to clear (log 19). -/
theorem exec_reset (s : State) : exec .reset s = .next { State.reset with offers := s.offers } := rfl

/-- Settles O44: RESET leaves `State.reset` in every cell but the offers (`exec_reset`), which the table does not name, so
the table is that of the reset state (`resetStateHoldsTheResetTable`). -/
theorem resetWritesTheResetTable : Obligations.ResetWritesTheResetTable :=
  fun s => ⟨_, exec_reset s, resetStateHoldsTheResetTable⟩

end Sys2Proof.Machine
end
